-- ==== Sys2Proof/Word.lean ====
section
/-! DEFINITION. The words of the machine: every quantity is unsigned (00_scope.md R7). -/

namespace Sys2Proof

/-- A memory byte, a general register, a timer (R11, R21, R40). -/
abbrev Byte := BitVec 8

/-- An opcode, `I`, `pc`, a stack slot (R14, R16, R19). -/
abbrev Word := BitVec 16

/-- A register number, a field `x` or `y` of an opcode: all 16 values are legal (R64). -/
abbrev RegNum := Fin 16

end Sys2Proof
end

