-- ==== Sys2Proof/Syntax.lean ====
section
/-! DEFINITION. The instructions: one constructor per row of spec/opcode_table.json, in the table's order
(30_encoding.md R66), with the fields the row gives it (R62). -/

namespace Sys2Proof

inductive Instr where
  /-- `00E0` clear screen -/
  | cls
  /-- `00EE` return from subroutine -/
  | ret
  /-- `0NNN` machine-routine call, `nnn` other than `0x0E0` and `0x0EE` -/
  | sys (nnn : BitVec 12)
  /-- `1NNN` jump -/
  | jp (nnn : BitVec 12)
  /-- `2NNN` call subroutine -/
  | call (nnn : BitVec 12)
  /-- `3XNN` skip if `V[x] = nn` -/
  | seImm (x : RegNum) (nn : Byte)
  /-- `4XNN` skip if `V[x] != nn` -/
  | sneImm (x : RegNum) (nn : Byte)
  /-- `5XY0` skip if `V[x] = V[y]` -/
  | seReg (x y : RegNum)
  /-- `6XNN` set register to immediate -/
  | ldImm (x : RegNum) (nn : Byte)
  /-- `7XNN` add immediate -/
  | addImm (x : RegNum) (nn : Byte)
  /-- `8XY0` assign -/
  | ldReg (x y : RegNum)
  /-- `8XY1` OR -/
  | orReg (x y : RegNum)
  /-- `8XY2` AND -/
  | andReg (x y : RegNum)
  /-- `8XY3` XOR -/
  | xorReg (x y : RegNum)
  /-- `8XY4` add with carry out -/
  | addReg (x y : RegNum)
  /-- `8XY5` subtract -/
  | subReg (x y : RegNum)
  /-- `8XY6` shift right by one; `y` is decoded and not used -/
  | shr (x y : RegNum)
  /-- `8XY7` reverse subtract -/
  | subnReg (x y : RegNum)
  /-- `8XYE` shift left by one; `y` is decoded and not used -/
  | shl (x y : RegNum)
  /-- `9XY0` skip if `V[x] != V[y]` -/
  | sneReg (x y : RegNum)
  /-- `ANNN` set index -/
  | ldI (nnn : BitVec 12)
  /-- `BNNN` indirect jump -/
  | jpV0 (nnn : BitVec 12)
  /-- `CXNN` random byte masked -/
  | rnd (x : RegNum) (nn : Byte)
  /-- `DXYN` draw sprite of height `n` -/
  | drw (x y : RegNum) (n : BitVec 4)
  /-- `EX9E` skip if key pressed -/
  | skp (x : RegNum)
  /-- `EXA1` skip if key not pressed -/
  | sknp (x : RegNum)
  /-- `FX07` read delay timer -/
  | ldVxDt (x : RegNum)
  /-- `FX0A` wait for a key -/
  | ldVxK (x : RegNum)
  /-- `FX15` set delay timer -/
  | ldDtVx (x : RegNum)
  /-- `FX18` set sound timer -/
  | ldStVx (x : RegNum)
  /-- `FX1E` add register to index -/
  | addI (x : RegNum)
  /-- `FX29` point index at a font glyph -/
  | ldF (x : RegNum)
  /-- `FX33` store decimal digits -/
  | ldB (x : RegNum)
  /-- `FX55` store registers V0 to Vx -/
  | storeRegs (x : RegNum)
  /-- `FX65` load registers V0 to Vx -/
  | loadRegs (x : RegNum)
deriving DecidableEq, Repr

end Sys2Proof
end

