-- ==== Sys2Proof/Decode.lean ====
section
/-! DEFINITION. The decoder (30_encoding.md R60 to R69) and, after it, the encoder, written from the same tables. -/

namespace Sys2Proof

/-! Fields of an opcode (R62). -/

/-- `op[15:12]`, the primary opcode. -/
def opTop (op : Word) : BitVec 4 := op.extractLsb' 12 4

/-- `x = op[11:8]`. -/
def opX (op : Word) : RegNum := (op.extractLsb' 8 4).toFin

/-- `y = op[7:4]`. -/
def opY (op : Word) : RegNum := (op.extractLsb' 4 4).toFin

/-- `n = op[3:0]`. -/
def opN (op : Word) : BitVec 4 := op.extractLsb' 0 4

/-- `nn = op[7:0]`. -/
def opNN (op : Word) : Byte := op.extractLsb' 0 8

/-- `nnn = op[11:0]`. -/
def opNNN (op : Word) : BitVec 12 := op.extractLsb' 0 12

/-- Family 8: the low nibble selects the form and must be one of 0 to 7 and E (R65 step 3). -/
def decodeAlu (op : Word) : Option Instr :=
  match (opN op).toNat with
  | 0x0 => some (.ldReg (opX op) (opY op))
  | 0x1 => some (.orReg (opX op) (opY op))
  | 0x2 => some (.andReg (opX op) (opY op))
  | 0x3 => some (.xorReg (opX op) (opY op))
  | 0x4 => some (.addReg (opX op) (opY op))
  | 0x5 => some (.subReg (opX op) (opY op))
  | 0x6 => some (.shr (opX op) (opY op))
  | 0x7 => some (.subnReg (opX op) (opY op))
  | 0xE => some (.shl (opX op) (opY op))
  | _ => none

/-- Family E: the whole low byte must match (R65 step 3, R68). -/
def decodeKey (op : Word) : Option Instr :=
  if opNN op = 0x9E#8 then some (.skp (opX op))
  else if opNN op = 0xA1#8 then some (.sknp (opX op))
  else none

/-- Family F: the whole low byte must match (R65 step 3, R68). -/
def decodeMisc (op : Word) : Option Instr :=
  if opNN op = 0x07#8 then some (.ldVxDt (opX op))
  else if opNN op = 0x0A#8 then some (.ldVxK (opX op))
  else if opNN op = 0x15#8 then some (.ldDtVx (opX op))
  else if opNN op = 0x18#8 then some (.ldStVx (opX op))
  else if opNN op = 0x1E#8 then some (.addI (opX op))
  else if opNN op = 0x29#8 then some (.ldF (opX op))
  else if opNN op = 0x33#8 then some (.ldB (opX op))
  else if opNN op = 0x55#8 then some (.storeRegs (opX op))
  else if opNN op = 0x65#8 then some (.loadRegs (opX op))
  else none

/-- The classification of an opcode (R65): a function of the 16 bits alone; `none` is *unknown* (R67). -/
def decodeOp (op : Word) : Option Instr :=
  if op = 0x00E0#16 then some .cls
  else if op = 0x00EE#16 then some .ret
  else
    match (opTop op).toNat with
    | 0x0 => some (.sys (opNNN op))
    | 0x1 => some (.jp (opNNN op))
    | 0x2 => some (.call (opNNN op))
    | 0x3 => some (.seImm (opX op) (opNN op))
    | 0x4 => some (.sneImm (opX op) (opNN op))
    | 0x5 => if opN op = 0#4 then some (.seReg (opX op) (opY op)) else none
    | 0x6 => some (.ldImm (opX op) (opNN op))
    | 0x7 => some (.addImm (opX op) (opNN op))
    | 0x8 => decodeAlu op
    | 0x9 => if opN op = 0#4 then some (.sneReg (opX op) (opY op)) else none
    | 0xA => some (.ldI (opNNN op))
    | 0xB => some (.jpV0 (opNNN op))
    | 0xC => some (.rnd (opX op) (opNN op))
    | 0xD => some (.drw (opX op) (opY op) (opN op))
    | 0xE => decodeKey op
    | _ => decodeMisc op

/-- Why a byte sequence is not an instruction. -/
inductive DecodeError where
  /-- fewer than the two bytes of an instruction (R60) -/
  | truncated
  /-- the word matches no form (R67); the CORE executes it as a reported no-operation (R87) -/
  | unknownOpcode (op : Word)
deriving DecidableEq, Repr

/-- Two bytes as an opcode, big-endian: the byte at the lower address is `op[15:8]` (R61). -/
def wordOfBytes (hi lo : Byte) : Word := hi ++ lo

/-- An opcode as the two bytes that stand in memory, lower address first (R61). -/
def bytesOfWord (op : Word) : List Byte := [op.extractLsb' 8 8, op.extractLsb' 0 8]

/-- The decoder on bytes: the instruction and the bytes after it. -/
def decode (bytes : List Byte) : Except DecodeError (Instr × List Byte) :=
  match bytes with
  | hi :: lo :: rest =>
    match decodeOp (wordOfBytes hi lo) with
    | some i => .ok (i, rest)
    | none => .error (.unknownOpcode (wordOfBytes hi lo))
  | _ => .error .truncated

/-- The host's question: what the decoder reads from a table word of `nbits` bits numbered as spec/opcode_table.json
numbers them (the table's numbering is that of the opcode, R62); bits above `nbits` are 0. -/
def decodeTableWord (nbits w : Nat) : Option Instr :=
  match decode (bytesOfWord (BitVec.ofNat 16 (w % 2 ^ nbits))) with
  | .ok (i, _) => some i
  | .error _ => none

/-! The encoder: the formats of R63 with the constants of R66. -/

/-- A register number as the four bits of its field (R64). -/
def regBits (x : RegNum) : BitVec 4 := BitVec.ofFin x

/-- Format NNN. -/
def encNNN (top : BitVec 4) (nnn : BitVec 12) : Word := top ++ nnn

/-- Formats XNN and XKK. -/
def encXNN (top : BitVec 4) (x : RegNum) (nn : Byte) : Word := top ++ regBits x ++ nn

/-- Format XYN. -/
def encXYN (top : BitVec 4) (x y : RegNum) (n : BitVec 4) : Word := top ++ regBits x ++ regBits y ++ n

/-- The opcode of an instruction. -/
def encode (i : Instr) : Word :=
  match i with
  | .cls => 0x00E0#16
  | .ret => 0x00EE#16
  | .sys nnn => encNNN 0x0#4 nnn
  | .jp nnn => encNNN 0x1#4 nnn
  | .call nnn => encNNN 0x2#4 nnn
  | .seImm x nn => encXNN 0x3#4 x nn
  | .sneImm x nn => encXNN 0x4#4 x nn
  | .seReg x y => encXYN 0x5#4 x y 0x0#4
  | .ldImm x nn => encXNN 0x6#4 x nn
  | .addImm x nn => encXNN 0x7#4 x nn
  | .ldReg x y => encXYN 0x8#4 x y 0x0#4
  | .orReg x y => encXYN 0x8#4 x y 0x1#4
  | .andReg x y => encXYN 0x8#4 x y 0x2#4
  | .xorReg x y => encXYN 0x8#4 x y 0x3#4
  | .addReg x y => encXYN 0x8#4 x y 0x4#4
  | .subReg x y => encXYN 0x8#4 x y 0x5#4
  | .shr x y => encXYN 0x8#4 x y 0x6#4
  | .subnReg x y => encXYN 0x8#4 x y 0x7#4
  | .shl x y => encXYN 0x8#4 x y 0xE#4
  | .sneReg x y => encXYN 0x9#4 x y 0x0#4
  | .ldI nnn => encNNN 0xA#4 nnn
  | .jpV0 nnn => encNNN 0xB#4 nnn
  | .rnd x nn => encXNN 0xC#4 x nn
  | .drw x y n => encXYN 0xD#4 x y n
  | .skp x => encXNN 0xE#4 x 0x9E#8
  | .sknp x => encXNN 0xE#4 x 0xA1#8
  | .ldVxDt x => encXNN 0xF#4 x 0x07#8
  | .ldVxK x => encXNN 0xF#4 x 0x0A#8
  | .ldDtVx x => encXNN 0xF#4 x 0x15#8
  | .ldStVx x => encXNN 0xF#4 x 0x18#8
  | .addI x => encXNN 0xF#4 x 0x1E#8
  | .ldF x => encXNN 0xF#4 x 0x29#8
  | .ldB x => encXNN 0xF#4 x 0x33#8
  | .storeRegs x => encXNN 0xF#4 x 0x55#8
  | .loadRegs x => encXNN 0xF#4 x 0x65#8

/-- The row of R66 a form has: its mask and match. The decoder does not use it; claims hold decoder and encoder against it. -/
def Instr.tableRow (i : Instr) : Word × Word :=
  match i with
  | .cls => (0xFFFF#16, 0x00E0#16)
  | .ret => (0xFFFF#16, 0x00EE#16)
  | .sys _ => (0xF000#16, 0x0000#16)
  | .jp _ => (0xF000#16, 0x1000#16)
  | .call _ => (0xF000#16, 0x2000#16)
  | .seImm _ _ => (0xF000#16, 0x3000#16)
  | .sneImm _ _ => (0xF000#16, 0x4000#16)
  | .seReg _ _ => (0xF00F#16, 0x5000#16)
  | .ldImm _ _ => (0xF000#16, 0x6000#16)
  | .addImm _ _ => (0xF000#16, 0x7000#16)
  | .ldReg _ _ => (0xF00F#16, 0x8000#16)
  | .orReg _ _ => (0xF00F#16, 0x8001#16)
  | .andReg _ _ => (0xF00F#16, 0x8002#16)
  | .xorReg _ _ => (0xF00F#16, 0x8003#16)
  | .addReg _ _ => (0xF00F#16, 0x8004#16)
  | .subReg _ _ => (0xF00F#16, 0x8005#16)
  | .shr _ _ => (0xF00F#16, 0x8006#16)
  | .subnReg _ _ => (0xF00F#16, 0x8007#16)
  | .shl _ _ => (0xF00F#16, 0x800E#16)
  | .sneReg _ _ => (0xF00F#16, 0x9000#16)
  | .ldI _ => (0xF000#16, 0xA000#16)
  | .jpV0 _ => (0xF000#16, 0xB000#16)
  | .rnd _ _ => (0xF000#16, 0xC000#16)
  | .drw _ _ _ => (0xF000#16, 0xD000#16)
  | .skp _ => (0xF0FF#16, 0xE09E#16)
  | .sknp _ => (0xF0FF#16, 0xE0A1#16)
  | .ldVxDt _ => (0xF0FF#16, 0xF007#16)
  | .ldVxK _ => (0xF0FF#16, 0xF00A#16)
  | .ldDtVx _ => (0xF0FF#16, 0xF015#16)
  | .ldStVx _ => (0xF0FF#16, 0xF018#16)
  | .addI _ => (0xF0FF#16, 0xF01E#16)
  | .ldF _ => (0xF0FF#16, 0xF029#16)
  | .ldB _ => (0xF0FF#16, 0xF033#16)
  | .storeRegs _ => (0xF0FF#16, 0xF055#16)
  | .loadRegs _ => (0xF0FF#16, 0xF065#16)

/-- The opcode map of R66 as (mask, match) rows, in its order. -/
def opcodeRows : List (Word × Word) :=
  [(0xFFFF#16, 0x00E0#16), (0xFFFF#16, 0x00EE#16), (0xF000#16, 0x0000#16), (0xF000#16, 0x1000#16), (0xF000#16, 0x2000#16)] ++
  [(0xF000#16, 0x3000#16), (0xF000#16, 0x4000#16), (0xF00F#16, 0x5000#16), (0xF000#16, 0x6000#16), (0xF000#16, 0x7000#16)] ++
  [(0xF00F#16, 0x8000#16), (0xF00F#16, 0x8001#16), (0xF00F#16, 0x8002#16), (0xF00F#16, 0x8003#16), (0xF00F#16, 0x8004#16)] ++
  [(0xF00F#16, 0x8005#16), (0xF00F#16, 0x8006#16), (0xF00F#16, 0x8007#16), (0xF00F#16, 0x800E#16), (0xF00F#16, 0x9000#16)] ++
  [(0xF000#16, 0xA000#16), (0xF000#16, 0xB000#16), (0xF000#16, 0xC000#16), (0xF000#16, 0xD000#16), (0xF0FF#16, 0xE09E#16)] ++
  [(0xF0FF#16, 0xE0A1#16), (0xF0FF#16, 0xF007#16), (0xF0FF#16, 0xF00A#16), (0xF0FF#16, 0xF015#16), (0xF0FF#16, 0xF018#16)] ++
  [(0xF0FF#16, 0xF01E#16), (0xF0FF#16, 0xF029#16), (0xF0FF#16, 0xF033#16), (0xF0FF#16, 0xF055#16), (0xF0FF#16, 0xF065#16)]

/-- The bytes of an instruction, in address order. -/
def encodeBytes (i : Instr) : List Byte := bytesOfWord (encode i)

end Sys2Proof
end

