-- ==== Sys2Proof/Config.lean ====
section
/-! DEFINITION. What the spec leaves as a parameter and not as state (00_scope.md R6), but for the host's sequence of transactions;
and the two sizes of the LOAD transaction (R5). -/

namespace Sys2Proof

/-- 80 font bytes: 16 glyphs of five rows, `FONT[0]` to `FONT[79]` (R44, R46). -/
abbrev Font := Vector Byte 80

/-- The configuration of a CORE, fixed for a run (R6 (a)): one machine for each value. The default of R46 stands in
Machine/Font.lean. Log 1. -/
structure Config where
  /-- `FONT`, what RESET puts at `0x000` to `0x04F` (R46, D19); no other rule depends on it -/
  font : Font
deriving DecidableEq, Repr

namespace Config

/-- The random bytes RND draws: FREE VALUE, no body (R153, D16: `rnd` is "a fresh free input of every STEP").
The `k`-th byte drawn is `freeRnd k`; nothing can be proved of it but that it is a byte. Log 2. -/
opaque freeRnd : Nat → Byte

/-- `PROG_BASE`, where LOAD puts the program (R5). -/
abbrev progBase : Nat := 0x200

/-- `PROG_MAX`, the largest program image in bytes (R5, conflict C2). -/
abbrev progMax : Nat := 3584

end Config

end Sys2Proof
end

