-- ==== Sys2Proof/Machine/Font.lean ====
section
/-! DEFINITION. The default of the parameter FONT (20_memory.md R46). -/

namespace Sys2Proof

/-- The table of R46, one glyph of five rows a line, top row first (R44). PRESUMED (the spec marks the bytes as general
knowledge, D19), log 1. -/
def defaultFontBytes : List Byte :=
  [0xF0#8, 0x90#8, 0x90#8, 0x90#8, 0xF0#8] ++  -- 0
  [0x20#8, 0x60#8, 0x20#8, 0x20#8, 0x70#8] ++  -- 1
  [0xF0#8, 0x10#8, 0xF0#8, 0x80#8, 0xF0#8] ++  -- 2
  [0xF0#8, 0x10#8, 0xF0#8, 0x10#8, 0xF0#8] ++  -- 3
  [0x90#8, 0x90#8, 0xF0#8, 0x10#8, 0x10#8] ++  -- 4
  [0xF0#8, 0x80#8, 0xF0#8, 0x10#8, 0xF0#8] ++  -- 5
  [0xF0#8, 0x80#8, 0xF0#8, 0x90#8, 0xF0#8] ++  -- 6
  [0xF0#8, 0x10#8, 0x20#8, 0x40#8, 0x40#8] ++  -- 7
  [0xF0#8, 0x90#8, 0xF0#8, 0x90#8, 0xF0#8] ++  -- 8
  [0xF0#8, 0x90#8, 0xF0#8, 0x10#8, 0xF0#8] ++  -- 9
  [0xF0#8, 0x90#8, 0xF0#8, 0x90#8, 0x90#8] ++  -- A
  [0xE0#8, 0x90#8, 0xE0#8, 0x90#8, 0xE0#8] ++  -- B
  [0xF0#8, 0x80#8, 0x80#8, 0x80#8, 0xF0#8] ++  -- C
  [0xE0#8, 0x90#8, 0x90#8, 0x90#8, 0xE0#8] ++  -- D
  [0xF0#8, 0x80#8, 0xF0#8, 0x80#8, 0xF0#8] ++  -- E
  [0xF0#8, 0x80#8, 0xF0#8, 0x80#8, 0x80#8]     -- F

/-- The configuration with the default font (R46). -/
def defaultConfig : Config where
  font := ⟨defaultFontBytes.toArray, rfl⟩

end Sys2Proof
end

