-- ==== Sys2Proof/Machine/State.lean ====
section
/-! DEFINITION. The state of the CORE (10_state.md R10), the faults (60_exceptions.md R210) and the state after RESET (R29). -/

namespace Sys2Proof.Machine

/-- Main memory as (address, byte) cells in canonical form (`Memory.wf`): addresses strictly rising and at most `0xFFF`,
no cell equal to what its address reads as when unlisted (`Memory.unlisted`, the content after RESET). -/
abbrev Memory := List Host.Cell

/-- The eleven fields of R10, and four of the model's own: the two outputs of the last completed STEP and the count of random
bytes drawn (logs 2 and 3), which stand here because `exec` and `step` return a state and nothing else, and the
configuration (log 1), which stands here because they take a state and nothing else. -/
structure State where
  /-- `V[0]` to `V[15]` (R11) -/
  v : Vector Byte 16
  /-- the index register `I` (R14) -/
  i : Word
  /-- the program counter (R16) -/
  pc : Word
  /-- the 16 return-address slots (R19) -/
  stack : Vector Word 16
  /-- `SP`, the number of live stack slots, 0 to 16 (R20) -/
  sp : Fin 17
  /-- the delay timer `DT` (R21) -/
  dt : Byte
  /-- the sound timer `ST` (R22) -/
  st : Byte
  /-- main memory (R40) -/
  mem : Memory
  /-- the framebuffer: pixel `(x, y)` is bit `y * 64 + x` (R23) -/
  fb : BitVec 2048
  /-- the key matrix: `true` is pressed (R25) -/
  keys : Vector Bool 16
  /-- the redraw request (R24) -/
  needsRedraw : Bool
  /-- the model's own: output `soundTrigger` of the last completed STEP (R89); nothing reads it. Log 3. -/
  soundTrigger : Bool
  /-- the model's own: output `unknownOpcode` of the last completed STEP (R87, R90); nothing reads it. Log 3. -/
  unknownOpcode : Option Word
  /-- the model's own: how many bytes of `Config.freeRnd` have been drawn (R153). Log 2. -/
  draws : Nat
  /-- the model's own: the parameters of R6 (a); no instruction and no transaction changes it. Log 1. -/
  config : Config
deriving DecidableEq, Repr

/-- The faults of a STEP, each with its 16-bit information word (R210). A fault changes no state (R213): all four are the
spec's own and safe. -/
inductive Fault where
  /-- code 1, raised by the fetch of any STEP when `pc > 0xFFE`; information: `pc` (R82). Safe. -/
  | invalidFetch (pc : Word)
  /-- code 2, raised by LD B, LD [I], LD Vx,[I], DRW with the lowest offending address, and by SKP, SKNP with `V[x]`
  (R210, R212). Safe. -/
  | outOfRange (info : Word)
  /-- code 3, raised by CALL when `SP = 16`; information: the address of the CALL (R214). Safe. -/
  | stackOverflow (pc : Word)
  /-- code 4, raised by RET when `SP = 0`; information: the address of the RET (R215). Safe. -/
  | stackUnderflow (pc : Word)
deriving DecidableEq, Repr

/-- Refusals. No instruction of this model is refused: from every state a STEP completes or faults (R231). -/
inductive Refusal where
  /-- an instruction with no meaning yet, raised by `exec`'s arm alone; safe. No arm raises it. -/
  | notModelled (mnemonic : String)
deriving DecidableEq, Repr

/-- The state right after RESET (R29) of a CORE with the given configuration. The model's own fields: logs 1, 2 and 3. -/
def State.resetWith (config : Config) : State where
  v := Vector.replicate 16 0#8
  i := 0x000#16
  pc := 0x200#16
  stack := Vector.replicate 16 0#16
  sp := 0
  dt := 0#8
  st := 0#8
  mem := []
  fb := 0#2048
  keys := Vector.replicate 16 false
  needsRedraw := false
  soundTrigger := false
  unknownOpcode := none
  draws := 0
  config := config

/-- The state right after RESET with the default font of R46. -/
def State.reset : State := State.resetWith defaultConfig

end Sys2Proof.Machine
end

