-- ==== Sys2Proof/Machine/Memory.lean ====
section
/-! DEFINITION. Main memory as cells: what an unlisted address reads as, one-byte read and write that keep the canonical form
(20_memory.md). The font is an argument of each: it is a parameter of the model (R6). -/

namespace Sys2Proof

namespace Machine

/-- What an address reads as that no cell lists: the content after RESET, the font below `0x050` and 0 above (R29, R43).
Addresses above `0xFFF` do not exist; no access of the machine reaches one (log 10). -/
def Memory.unlisted (font : Font) (a : Nat) : Byte := if h : a < 80 then font.get ⟨a, h⟩ else 0#8

/-- The byte `mem[a]`. -/
def Memory.read (font : Font) (m : Memory) (a : Nat) : Byte :=
  match m with
  | [] => Memory.unlisted font a
  | (k, b) :: rest => if k = a then b else Memory.read font rest a

/-- A cell in front of `rest`, but for a byte the address reads as anyway. -/
def Memory.cell (font : Font) (a : Nat) (b : Byte) (rest : Memory) : Memory :=
  if b = Memory.unlisted font a then rest else (a, b) :: rest

/-- `mem[a] <- b`, keeping the canonical form (R42). -/
def Memory.write (font : Font) (m : Memory) (a : Nat) (b : Byte) : Memory :=
  match m with
  | [] => Memory.cell font a b []
  | (k, c) :: rest =>
    if k < a then (k, c) :: Memory.write font rest a b
    else if k = a then Memory.cell font a b rest
    else Memory.cell font a b ((k, c) :: rest)

/-- `mem[a], mem[a+1], … <- bs`, in this order. -/
def Memory.writeList (font : Font) (m : Memory) (a : Nat) (bs : List Byte) : Memory :=
  match bs with
  | [] => m
  | b :: rest => Memory.writeList font (Memory.write font m a b) (a + 1) rest

/-- `mem[a]` to `mem[a + n - 1]`. -/
def Memory.readList (font : Font) (m : Memory) (a : Nat) (n : Nat) : List Byte :=
  match n with
  | 0 => []
  | n + 1 => Memory.read font m a :: Memory.readList font m (a + 1) n

/-- The canonical form. -/
abbrev Memory.wf (font : Font) (m : Memory) : Prop :=
  m.Pairwise (fun c d => c.1 < d.1) ∧ ∀ c ∈ m, c.1 ≤ 0xFFF ∧ c.2 ≠ Memory.unlisted font c.1

end Machine

end Sys2Proof
end

