-- ==== Sys2Proof/Machine/Ops.lean ====
section
/-! DEFINITION. The named operations over registers, memory, stack, pc, keys and timers that the meanings are made of. -/

namespace Sys2Proof.Machine

/-- What a meaning answers with. -/
abbrev Result := Host.Outcome State Fault Refusal

/-- Taking a fault (R213): the STEP is abandoned with the state exactly as it was and the fault goes to the host; the CORE
saves nothing, switches no mode and goes to no handler, so the outcome carries the fault and no state (log 5). There is no
return from a fault (R221). -/
def raise (f : Fault) : Result := .fault f

/-! General registers (R11). None is hardwired. -/

/-- `V[r]`. -/
def readV (s : State) (r : RegNum) : Byte := s.v.get r

/-- `V[r] <- b`. -/
def writeV (s : State) (r : RegNum) (b : Byte) : State := { s with v := s.v.set r.val b r.isLt }

/-! Memory. -/

/-- The byte `mem[a]`. -/
def byteAt (s : State) (a : Nat) : Byte := Memory.read s.config.font s.mem a

/-- `MemRead(a, 1)` (R41). The information word is the address in 16 bits (log 17). -/
def memRead (s : State) (a : Nat) : Except Fault Byte :=
  if a > 0xFFF then .error (.outOfRange (BitVec.ofNat 16 a)) else .ok (byteAt s a)

/-- `MemWrite(a, 1, b)` (R42). -/
def memWrite (s : State) (a : Nat) (b : Byte) : Except Fault State :=
  if a > 0xFFF then .error (.outOfRange (BitVec.ofNat 16 a)) else .ok { s with mem := Memory.write s.config.font s.mem a b }

/-- The `n` bytes from address `a` up. -/
def loadBytes (s : State) (a n : Nat) : List Byte := Memory.readList s.config.font s.mem a n

/-- `mem[a], mem[a+1], … <- bs`. -/
def storeBytes (s : State) (a : Nat) (bs : List Byte) : State := { s with mem := Memory.writeList s.config.font s.mem a bs }

/-- The lowest address above `0xFFF` that an access starting at `I` reaches: `max(I, 0x1000)` (R150). -/
def lowestOffending (s : State) : Word := if s.i.toNat ≤ 0x1000 then 0x1000#16 else s.i

/-- The range check every `I`-relative instruction makes before it writes anything (R50, R150): it touches `count` bytes
from `I` up; if one of them is above `0xFFF` it faults, otherwise it ends in `t`. -/
def indexedAccess (s : State) (count : Nat) (t : State) : Result :=
  if count ≥ 1 ∧ s.i.toNat + count - 1 > 0xFFF then raise (.outOfRange (lowestOffending s)) else .next t

/-! Program counter (R17): a plain 16-bit number. -/

/-- `pc <- pc + 2`. -/
def advance (s : State) : State := { s with pc := s.pc + 2#16 }

/-- `pc <- target`. -/
def jumpTo (s : State) (target : Word) : State := { s with pc := target }

/-- `if c then pc <- pc + 4 else pc <- pc + 2`. -/
def skipIf (s : State) (c : Bool) : State := { s with pc := if c then s.pc + 4#16 else s.pc + 2#16 }

/-! Stack (R19, R20). -/

/-- `stack[SP] <- a; SP <- SP + 1`, or `none` when `SP = 16`. -/
def push (s : State) (a : Word) : Option State :=
  if h : s.sp.val < 16 then
    some { s with stack := s.stack.set s.sp.val a h, sp := ⟨s.sp.val + 1, by omega⟩ }
  else none

/-- `SP <- SP - 1` and the old top of the stack, or `none` when `SP = 0`. The slot keeps its value (R19). -/
def pop (s : State) : Option (Word × State) :=
  if h : 0 < s.sp.val then
    some (s.stack.get ⟨s.sp.val - 1, by omega⟩, { s with sp := ⟨s.sp.val - 1, by omega⟩ })
  else none

/-! Keys (R25, R187). -/

/-- `keys[k]`. -/
def keyDown (s : State) (k : Fin 16) : Bool := s.keys.get k

/-- The least `k` with `keys[k]` true (R185). -/
def lowestKey (s : State) : Option (Fin 16) := (List.finRange 16).find? (fun k => keyDown s k)

/-! Framebuffer (R23). -/

/-- The pixel `fb[x, y]`, for `x` in 0 to 63 and `y` in 0 to 31. -/
def pixel (s : State) (x y : Nat) : Bool := s.fb.getLsbD (y * 64 + x)

/-! The random byte (R94, R153, log 2). -/

/-- The byte the next draw gives. -/
def nextRandom (s : State) : Byte := Config.freeRnd s.draws

/-- The draw is used up. -/
def drawn (s : State) : State := { s with draws := s.draws + 1 }

/-! The frame of a STEP (40_step_cycle.md). -/

/-- `report UnknownOpcode(op)` (R87). -/
def report (s : State) (op : Word) : State := { s with unknownOpcode := some op }

/-- Phase 1 (R81, R82): the two bytes at `pc` and `pc + 1`, big-endian, or `InvalidFetch(pc)` when `pc > 0xFFE`. -/
def fetch (s : State) : Except Fault Word :=
  if s.pc.toNat + 1 > 0xFFF then .error (.invalidFetch s.pc)
  else .ok (wordOfBytes (byteAt s s.pc.toNat) (byteAt s (s.pc.toNat + 1)))

/-- The outputs of the STEP before are gone when a STEP begins (R10: they "are not held anywhere"; log 3). -/
def clearOutputs (s : State) : State := { s with soundTrigger := false, unknownOpcode := none }

/-- A timer's tick: down by 1 while nonzero, stopping at 0 (R88). -/
def countDown (t : Byte) : Byte := if t = 0#8 then 0#8 else t - 1#8

/-- Phase 4 (R88, R89): both timers tick; the trigger fires exactly when `ST = 1` before the tick. -/
def tick (s : State) : State :=
  { s with dt := countDown s.dt, st := countDown s.st, soundTrigger := decide (s.st = 1#8) }

/-- The end of a STEP: phase 4 follows every phase 3 that raises no fault (R84, R86, R88). -/
def thenTick (r : Result) : Result :=
  match r with
  | .next t => .next (tick t)
  | .fault f => .fault f
  | .refused q => .refused q

end Sys2Proof.Machine
end

