-- ==== Sys2Proof/Machine/Operands.lean ====
section
/-! DEFINITION. The operand forms (R64, R150): register, immediate, the implicit `I`-relative block, the key number. Immediates
are used as the unsigned numbers their bits spell; nothing is sign-extended, scaled or shifted. -/

namespace Sys2Proof.Machine

/-- `zext_16(nnn)`. -/
def addrImm (nnn : BitVec 12) : Word := nnn.setWidth 16

/-- `zext_16` of a byte. -/
def byteWord (b : Byte) : Word := b.setWidth 16

/-- `VF`, the register that doubles as the flag output (R12). -/
def regF : RegNum := 15

/-- `V0`, the offset register of the indirect jump (R13). -/
def reg0 : RegNum := 0

/-- `V[0]` to `V[x]`, in this order: the block of LD [I],Vx (R156). -/
def regBlock (s : State) (x : RegNum) : List Byte := s.v.toList.take (x.val + 1)

/-- `V[0]` to `V[x]` replaced by `mem[I]` to `mem[I + x]`, the other registers kept (R157). -/
def loadBlock (s : State) (x : RegNum) : State :=
  { s with v := Vector.ofFn fun r : Fin 16 => if r ≤ x then byteAt s (s.i.toNat + r.val) else readV s r }

/-- `V[x]` as a key number; it must be 0 to 15, otherwise `OutOfRange(V[x])`, with no masking (R186). -/
def keyOperand (s : State) (x : RegNum) : Except Fault (Fin 16) :=
  if h : (readV s x).toNat < 16 then .ok ⟨(readV s x).toNat, h⟩ else .error (.outOfRange (byteWord (readV s x)))

/-- The address of the glyph of the low nibble of `a` (R154). -/
def glyphAddr (a : Byte) : Word := 5#16 * byteWord (a &&& 0x0F#8)

/-- The hundreds, tens and ones digits of `a`, a byte each (R155). -/
def bcdDigits (a : Byte) : List Byte :=
  [BitVec.ofNat 8 (a.toNat / 100), BitVec.ofNat 8 (a.toNat / 10 % 10), BitVec.ofNat 8 (a.toNat % 10)]

end Sys2Proof.Machine
end

