-- ==== Sys2Proof/Machine/Flags.lean ====
section
/-! DEFINITION. Every flag the spec computes into VF (R26), and the write order of the flag-writing forms (R130). Flags are the
bytes 0 and 1 (R12). Each compares exact natural numbers (R7, R140). -/

namespace Sys2Proof.Machine

/-- A condition as the 8-bit value 0 or 1. -/
def flagByte (c : Bool) : Byte := if c then 1#8 else 0#8

/-- ADD (R135): 1 if `a + b > 255`. -/
def carryFlag (a b : Byte) : Byte := flagByte (decide (a.toNat + b.toNat > 255))

/-- SUB (R136) on `a - b`, SUBN (R138) on `b - a`: 1 means NO borrow. -/
def noBorrowFlag (a b : Byte) : Byte := flagByte (decide (a.toNat ≥ b.toNat))

/-- SHR (R137): the bit shifted out, `a[0]`. -/
def lowBitFlag (a : Byte) : Byte := flagByte (a.getLsbD 0)

/-- SHL (R139): the bit shifted out, `a[7]`. -/
def highBitFlag (a : Byte) : Byte := flagByte (a.getLsbD 7)

/-- ADD I (R152): 1 if `i + a > 0xFFF`. -/
def indexFlag (i : Word) (a : Byte) : Byte := flagByte (decide (i.toNat + a.toNat > 0xFFF))

/-- ADD I (R152): `(i + a) mod 4096`. -/
def indexSum (i : Word) (a : Byte) : Word := BitVec.ofNat 16 ((i.toNat + a.toNat) % 4096)

/-- The end of the five flag-writing ALU forms (R130): `VF <- flag` first, `V[x] <- result` second, so that with `x = 15`
the result replaces the flag. `flag` and `result` are computed from operands read before. -/
def flagThenResult (s : State) (x : RegNum) (flag result : Byte) : State :=
  advance (writeV (writeV s regF flag) x result)

end Sys2Proof.Machine
end

