-- ==== Sys2Proof/Machine/Alu.lean ====
section
/-! DEFINITION. ALU and shift instructions (43_alu.md). The operands are read before anything is written (R85, R130). -/

namespace Sys2Proof.Machine

/-- LD Vx,Vy (R131). -/
def execLdReg (x y : RegNum) (s : State) : Result := .next (advance (writeV s x (readV s y)))

/-- OR Vx,Vy (R132): VF is not written. -/
def execOrReg (x y : RegNum) (s : State) : Result := .next (advance (writeV s x (readV s x ||| readV s y)))

/-- AND Vx,Vy (R133): VF is not written. -/
def execAndReg (x y : RegNum) (s : State) : Result := .next (advance (writeV s x (readV s x &&& readV s y)))

/-- XOR Vx,Vy (R134): VF is not written. -/
def execXorReg (x y : RegNum) (s : State) : Result := .next (advance (writeV s x (readV s x ^^^ readV s y)))

/-- ADD Vx,Vy (R135). -/
def execAddReg (x y : RegNum) (s : State) : Result :=
  .next (flagThenResult s x (carryFlag (readV s x) (readV s y)) (readV s x + readV s y))

/-- SUB Vx,Vy (R136). -/
def execSubReg (x y : RegNum) (s : State) : Result :=
  .next (flagThenResult s x (noBorrowFlag (readV s x) (readV s y)) (readV s x - readV s y))

/-- SHR Vx (R137): shifts `V[x]`; `V[y]` is neither read nor written. -/
def execShr (x _y : RegNum) (s : State) : Result :=
  .next (flagThenResult s x (lowBitFlag (readV s x)) (readV s x >>> 1))

/-- SUBN Vx,Vy (R138). -/
def execSubnReg (x y : RegNum) (s : State) : Result :=
  .next (flagThenResult s x (noBorrowFlag (readV s y) (readV s x)) (readV s y - readV s x))

/-- SHL Vx (R139): shifts `V[x]`; `V[y]` is neither read nor written. -/
def execShl (x _y : RegNum) (s : State) : Result :=
  .next (flagThenResult s x (highBitFlag (readV s x)) (readV s x <<< 1))

end Sys2Proof.Machine
end

