-- ==== Sys2Proof/Machine/ControlFlow.lean ====
section
/-! DEFINITION. Control flow (41_control_flow.md) and the unknown opcode (40_step_cycle.md R87). -/

namespace Sys2Proof.Machine

/-- An unknown opcode: a reported no-operation (R87). -/
def execUnknown (op : Word) (s : State) : Result := .next (advance (report s op))

/-- CLS (R101). -/
def execCls (s : State) : Result := .next (advance { s with fb := 0#2048, needsRedraw := true })

/-- RET (R102): the return address is used as it is. -/
def execRet (s : State) : Result :=
  match pop s with
  | some (target, t) => .next (jumpTo t target)
  | none => raise (.stackUnderflow s.pc)

/-- SYS nnn (R110): behaves as the unknown opcode `0nnn`, report included. -/
def execSys (nnn : BitVec 12) (s : State) : Result := execUnknown (encNNN 0x0#4 nnn) s

/-- JP nnn (R103). -/
def execJp (nnn : BitVec 12) (s : State) : Result := .next (jumpTo s (addrImm nnn))

/-- CALL nnn (R104): pushes `pc + 2`. -/
def execCall (nnn : BitVec 12) (s : State) : Result :=
  match push s (s.pc + 2#16) with
  | some t => .next (jumpTo t (addrImm nnn))
  | none => raise (.stackOverflow s.pc)

/-- SE Vx,nn (R105). -/
def execSeImm (x : RegNum) (nn : Byte) (s : State) : Result := .next (skipIf s (decide (readV s x = nn)))

/-- SNE Vx,nn (R106). -/
def execSneImm (x : RegNum) (nn : Byte) (s : State) : Result := .next (skipIf s (decide (readV s x ≠ nn)))

/-- SE Vx,Vy (R107). -/
def execSeReg (x y : RegNum) (s : State) : Result := .next (skipIf s (decide (readV s x = readV s y)))

/-- SNE Vx,Vy (R108). -/
def execSneReg (x y : RegNum) (s : State) : Result := .next (skipIf s (decide (readV s x ≠ readV s y)))

/-- JP V0,nnn (R109): a 16-bit sum, not reduced modulo 4096. -/
def execJpV0 (nnn : BitVec 12) (s : State) : Result :=
  .next (jumpTo s (addrImm nnn + byteWord (readV s reg0)))

end Sys2Proof.Machine
end

