-- ==== Sys2Proof/Machine/Immediate.lean ====
section
/-! DEFINITION. Register-immediate instructions (42_register_immediate.md). -/

namespace Sys2Proof.Machine

/-- LD Vx,nn (R120). -/
def execLdImm (x : RegNum) (nn : Byte) (s : State) : Result := .next (advance (writeV s x nn))

/-- ADD Vx,nn (R121): modulo 256, VF not written. -/
def execAddImm (x : RegNum) (nn : Byte) (s : State) : Result := .next (advance (writeV s x (readV s x + nn)))

end Sys2Proof.Machine
end

