-- ==== Sys2Proof/Machine/Index.lean ====
section
/-! DEFINITION. Index, random, font, BCD and register-block instructions (44_memory_index.md). -/

namespace Sys2Proof.Machine

/-- LD I,nnn (R151). -/
def execLdI (nnn : BitVec 12) (s : State) : Result := .next (advance { s with i := addrImm nnn })

/-- ADD I,Vx (R152): VF is written, then `I`; with `x = 15` the old VF is the addend. -/
def execAddI (x : RegNum) (s : State) : Result :=
  .next (advance { writeV s regF (indexFlag s.i (readV s x)) with i := indexSum s.i (readV s x) })

/-- RND for a given random byte (R153). -/
def execRndWith (rnd : Byte) (x : RegNum) (nn : Byte) (s : State) : Result :=
  .next (advance (writeV s x (rnd &&& nn)))

/-- RND Vx,nn (R153): the byte is the next draw, and the draw is used up. -/
def execRnd (x : RegNum) (nn : Byte) (s : State) : Result := execRndWith (nextRandom s) x nn (drawn s)

/-- LD F,Vx (R154). -/
def execLdF (x : RegNum) (s : State) : Result := .next (advance { s with i := glyphAddr (readV s x) })

/-- LD B,Vx (R155): `I` and `V[x]` unchanged. -/
def execLdB (x : RegNum) (s : State) : Result :=
  indexedAccess s 3 (advance (storeBytes s s.i.toNat (bcdDigits (readV s x))))

/-- LD [I],Vx (R156): `I` unchanged. -/
def execStoreRegs (x : RegNum) (s : State) : Result :=
  indexedAccess s (x.val + 1) (advance (storeBytes s s.i.toNat (regBlock s x)))

/-- LD Vx,[I] (R157): `I` unchanged. -/
def execLoadRegs (x : RegNum) (s : State) : Result := indexedAccess s (x.val + 1) (advance (loadBlock s x))

end Sys2Proof.Machine
end

