-- ==== Sys2Proof/Machine/Sprite.lean ====
section
/-! DEFINITION. The XOR-draw engine and its collision detector (45_sprite_draw.md), the loop of R170. -/

namespace Sys2Proof.Machine

/-- What the drawing loop works on: the framebuffer and `collision`. -/
structure Canvas where
  fb : BitVec 2048
  collision : Bool
deriving DecidableEq, Repr

/-- One set sprite bit at the screen coordinate `(sx, sy)`, natural numbers, not reduced in any way: dropped off the 64x32 grid
(R172), otherwise it notes a collision with a pixel that is on and inverts the pixel (R173). -/
def plot (sx sy : Nat) (c : Canvas) : Canvas :=
  if sx ≤ 63 ∧ sy ≤ 31 then
    { fb := c.fb ^^^ BitVec.twoPow 2048 (sy * 64 + sx), collision := c.collision || c.fb.getLsbD (sy * 64 + sx) }
  else c

/-- One sprite row, bit 7 leftmost (R171), from column `col` on; `left` columns remain. -/
def drawRow (b : Byte) (px sy : Nat) (col left : Nat) (c : Canvas) : Canvas :=
  match left with
  | 0 => c
  | left + 1 => drawRow b px sy (col + 1) left (if b.getLsbD (7 - col) then plot (px + col) sy c else c)

/-- The sprite rows, row 0 at the top (R171), the first of them on screen row `sy`. -/
def drawRows (rows : List Byte) (px sy : Nat) (c : Canvas) : Canvas :=
  match rows with
  | [] => c
  | b :: rest => drawRows rest px (sy + 1) (drawRow b px sy 0 8 c)

/-- The state after a sprite is drawn: pixels, then VF, then the redraw request (R170). -/
def withCanvas (s : State) (c : Canvas) : State :=
  { writeV { s with fb := c.fb } regF (flagByte c.collision) with needsRedraw := true }

/-- DRW Vx,Vy,n (R170 to R176): coordinates and all `n` rows are read first, also rows off the grid; `n = 0` draws nothing
and cannot fault. -/
def execDrw (x y : RegNum) (n : BitVec 4) (s : State) : Result :=
  indexedAccess s n.toNat
    (advance (withCanvas s
      (drawRows (loadBytes s s.i.toNat n.toNat) (readV s x).toNat (readV s y).toNat { fb := s.fb, collision := false })))

end Sys2Proof.Machine
end

