-- ==== Sys2Proof/Machine/TimerInput.lean ====
section
/-! DEFINITION. Timer and key-input instructions (46_timer_input.md). The tick is phase 4 of the STEP and not here. -/

namespace Sys2Proof.Machine

/-- LD Vx,DT (R180). -/
def execLdVxDt (x : RegNum) (s : State) : Result := .next (advance (writeV s x s.dt))

/-- LD DT,Vx (R181). -/
def execLdDtVx (x : RegNum) (s : State) : Result := .next (advance { s with dt := readV s x })

/-- LD ST,Vx (R182). -/
def execLdStVx (x : RegNum) (s : State) : Result := .next (advance { s with st := readV s x })

/-- SKP Vx (R183). -/
def execSkp (x : RegNum) (s : State) : Result :=
  match keyOperand s x with
  | .ok k => .next (skipIf s (keyDown s k))
  | .error f => raise f

/-- SKNP Vx (R184). -/
def execSknp (x : RegNum) (s : State) : Result :=
  match keyOperand s x with
  | .ok k => .next (skipIf s (!keyDown s k))
  | .error f => raise f

/-- LD Vx,K (R185): with no key pressed nothing changes and `pc` is not advanced; otherwise the lowest-numbered key. -/
def execLdVxK (x : RegNum) (s : State) : Result :=
  match lowestKey s with
  | none => .next s
  | some k => .next (advance (writeV s x (BitVec.ofNat 8 k.val)))

end Sys2Proof.Machine
end

