-- ==== Sys2Proof/Machine/Cycle.lean ====
section
/-! DEFINITION. Phases 2 and 3 of a STEP on a fetched opcode (R83, R84, R87). -/

namespace Sys2Proof.Machine

/-- Decode, then execute the form, or report the unknown opcode. -/
def execWord (op : Word) (s : State) : Result :=
  match decodeOp op with
  | some i => exec i s
  | none => execUnknown op s

/-- `s` with the opcode `op` in the two bytes a STEP of `s` fetches; no change when `pc > 0xFFE`, where no STEP fetches (log 19). -/
def placeWord (s : State) (op : Word) : State :=
  if s.pc.toNat + 1 > 0xFFF then s else storeBytes s s.pc.toNat (bytesOfWord op)

end Sys2Proof.Machine
end

