-- ==== Sys2Proof/Machine/Step.lean ====
section
/-! DEFINITION. One STEP (40_step_cycle.md R80, R95). The result record of phase 5 is `stepResult` in Machine/HostInterface.lean. -/

namespace Sys2Proof.Machine

/-- Fetch, decode, execute, tick. A fault ends the STEP with no state change (R86). -/
def step (s : State) : Host.Outcome State Fault Refusal :=
  match fetch s with
  | .error f => raise f
  | .ok op => thenTick (execWord op (clearOutputs s))

/-- `s` with the table word `w` of `nbits` bits where the next STEP fetches; the bits above `nbits` are 0 (log 4). -/
def State.withFetchWord (s : State) (nbits w : Nat) : State := placeWord s (BitVec.ofNat 16 (w % 2 ^ nbits))

end Sys2Proof.Machine
end

