-- ==== Sys2Proof/Machine/HostInterface.lean ====
section
/-! DEFINITION. The transactions by which the host drives the CORE (47_host_interface.md), the result record of a STEP (R90, R200)
and the table of causes (60_exceptions.md R210). -/

namespace Sys2Proof.Machine

/-- Errors of a host transaction other than STEP (R210). The transaction then changes nothing. -/
inductive HostError where
  /-- LOAD of more than 3584 bytes (R197, R217) -/
  | programTooLarge
  /-- KEY or OBSERVE with an index outside the field's range (R198, R201) -/
  | outOfRange (index : Nat)
deriving DecidableEq, Repr

/-- The result record of a STEP (R90, R200). -/
structure StepResult where
  needsRedraw : Bool
  soundTrigger : Bool
  unknownOpcode : Option Word
  fault : Option Fault
deriving DecidableEq, Repr

/-- What the host can read with OBSERVE (R201): every field of R10. -/
inductive Probe where
  | v (r : Nat)
  | i
  | pc
  | stack (k : Nat)
  | sp
  | dt
  | st
  | mem (a : Nat)
  /-- the pixel at framebuffer index `k = y * 64 + x` (R23) -/
  | fb (k : Nat)
  | key (k : Nat)
  | needsRedraw
deriving DecidableEq, Repr

/-- The complete list of transactions (R195). STEP takes its random byte from the state's free value (log 2). -/
inductive Transaction where
  | reset
  | load (bytes : List Byte)
  | key (k : Nat) (pressed : Bool)
  | ackRedraw
  | step
  | observe (p : Probe)
deriving DecidableEq, Repr

/-- What a transaction returns to the host. -/
inductive Response where
  | done
  | failed (e : HostError)
  | stepped (r : StepResult)
  | value (n : Nat)
deriving DecidableEq, Repr

/-- RESET (R196): every field to its value of R29 under the same configuration, the outputs gone. The random source is no state of the CORE (R27), so the
count of draws goes on (log 2). -/
def hostReset (s : State) : State := { State.resetWith s.config with draws := s.draws }

/-- LOAD (R197): the bytes verbatim from `0x200` up, nothing else changed. -/
def hostLoad (bytes : List Byte) (s : State) : Except HostError State :=
  if bytes.length > Config.progMax then .error .programTooLarge else .ok (storeBytes s Config.progBase bytes)

/-- KEY (R198). -/
def hostKey (k : Nat) (pressed : Bool) (s : State) : Except HostError State :=
  if h : k < 16 then .ok { s with keys := s.keys.set k pressed h } else .error (.outOfRange k)

/-- ACK_REDRAW (R199). -/
def hostAckRedraw (s : State) : State := { s with needsRedraw := false }

/-- A bounds-checked accessor (R201). -/
def probeAt (index limit value : Nat) : Except HostError Nat :=
  if index < limit then .ok value else .error (.outOfRange index)

/-- OBSERVE (R201). -/
def observe (p : Probe) (s : State) : Except HostError Nat :=
  match p with
  | .v r => probeAt r 16 (s.v.toList.getD r 0#8).toNat
  | .i => .ok s.i.toNat
  | .pc => .ok s.pc.toNat
  | .stack k => probeAt k 16 (s.stack.toList.getD k 0#16).toNat
  | .sp => .ok s.sp.val
  | .dt => .ok s.dt.toNat
  | .st => .ok s.st.toNat
  | .mem a => probeAt a 4096 (byteAt s a).toNat
  | .fb k => probeAt k 2048 (s.fb.getLsbD k).toNat
  | .key k => probeAt k 16 (s.keys.toList.getD k false).toNat
  | .needsRedraw => .ok s.needsRedraw.toNat

/-- The state after the transaction STEP: a STEP that does not complete leaves the state as it was (R86, R213, log 5). -/
def hostStep (s : State) : State :=
  match step s with
  | .next t => t
  | .fault _ => s
  | .refused _ => s

/-- Phase 5 (R90): the result record of a STEP of `s`. With a fault the other three are the unchanged flag, false and absent. -/
def stepResult (s : State) : StepResult :=
  match step s with
  | .next t => ⟨t.needsRedraw, t.soundTrigger, t.unknownOpcode, none⟩
  | .fault f => ⟨s.needsRedraw, false, none, some f⟩
  | .refused _ => ⟨s.needsRedraw, false, none, none⟩

/-- An attempted write of the host: applied completely or not at all (R202). -/
def applied (s : State) (r : Except HostError State) : State × Response :=
  match r with
  | .ok t => (t, .done)
  | .error e => (s, .failed e)

/-- One transaction: the state after it and the answer to the host. The host has no other move (R203). -/
def transact (t : Transaction) (s : State) : State × Response :=
  match t with
  | .reset => (hostReset s, .done)
  | .load bytes => applied s (hostLoad bytes s)
  | .key k pressed => applied s (hostKey k pressed s)
  | .ackRedraw => (hostAckRedraw s, .done)
  | .step => (hostStep s, .stepped (stepResult s))
  | .observe p =>
    match observe p s with
    | .ok n => (s, .value n)
    | .error e => (s, .failed e)

/-- A finite schedule of the host, in order (R202). -/
def runSchedule (ts : List Transaction) (s : State) : State :=
  match ts with
  | [] => s
  | t :: rest => runSchedule rest (transact t s).1

/-- The run of an infinite schedule (R202): the state after its first `n` transactions, for every `n`. -/
def stateAt (schedule : Nat → Transaction) (s : State) (n : Nat) : State :=
  match n with
  | 0 => s
  | n + 1 => (transact (schedule n) (stateAt schedule s n)).1

/-- What transaction `n` of an infinite schedule returns to the host (R202). -/
def responseAt (schedule : Nat → Transaction) (s : State) (n : Nat) : Response :=
  (transact (schedule n) (stateAt schedule s n)).2

/-- The causes of R210: faults, the diagnostic, host errors. -/
inductive Cause where
  | fault (f : Fault)
  | diagnostic (op : Word)
  | hostError (e : HostError)
deriving DecidableEq, Repr

/-- The numeric code of a cause (R210, the spec's own numbers, D23). -/
def Cause.code (c : Cause) : Nat :=
  match c with
  | .fault (.invalidFetch _) => 1
  | .fault (.outOfRange _) => 2
  | .fault (.stackOverflow _) => 3
  | .fault (.stackUnderflow _) => 4
  | .diagnostic _ => 5
  | .hostError .programTooLarge => 6
  | .hostError (.outOfRange _) => 2

/-- The information word of a cause (R210); ProgramTooLarge has none. -/
def Cause.info (c : Cause) : Option Nat :=
  match c with
  | .fault (.invalidFetch pc) => some pc.toNat
  | .fault (.outOfRange w) => some w.toNat
  | .fault (.stackOverflow pc) => some pc.toNat
  | .fault (.stackUnderflow pc) => some pc.toNat
  | .diagnostic op => some op.toNat
  | .hostError .programTooLarge => none
  | .hostError (.outOfRange index) => some index

/-- What a response reports of R210: at most one cause (R219). -/
def Response.cause (r : Response) : Option Cause :=
  match r with
  | .done => none
  | .failed e => some (.hostError e)
  | .stepped ⟨_, _, _, some f⟩ => some (.fault f)
  | .stepped ⟨_, _, some op, none⟩ => some (.diagnostic op)
  | .stepped ⟨_, _, none, none⟩ => none
  | .value _ => none

end Sys2Proof.Machine
end

