-- ==== Sys2Proof/Safety.lean ====
section
/-! DEFINITION. The terms claims use: what a change leaves alone (frames), the invariant of R30, which states the host can
reach, and what counts as a safe STEP. -/

namespace Sys2Proof.Machine

/-- The parts of State, but for the general registers and `pc`. `report` is the two outputs (log 3). -/
inductive Part where
  | index | memory | stack | sp | dt | st | screen | redraw | keys | report | draws | config
deriving DecidableEq, Repr

/-- The part is the same before and after. Memory is compared byte by byte. -/
def kept (p : Part) (s t : State) : Prop :=
  match p with
  | .index => t.i = s.i
  | .memory => ∀ a : Nat, byteAt t a = byteAt s a
  | .stack => t.stack = s.stack
  | .sp => t.sp = s.sp
  | .dt => t.dt = s.dt
  | .st => t.st = s.st
  | .screen => t.fb = s.fb
  | .redraw => t.needsRedraw = s.needsRedraw
  | .keys => t.keys = s.keys
  | .report => t.unknownOpcode = s.unknownOpcode ∧ t.soundTrigger = s.soundTrigger
  | .draws => t.draws = s.draws
  | .config => t.config = s.config

/-- Every part but those listed is the same. -/
def keepsAllBut (ps : List Part) (s t : State) : Prop := ∀ p : Part, p ∉ ps → kept p s t

/-- Every general register but those listed is the same. -/
def regsKeptBut (rs : List RegNum) (s t : State) : Prop := ∀ r : RegNum, r ∉ rs → readV t r = readV s r

/-- The same in all eleven fields of R10 and the configuration: the states differ at most in the outputs and the count of draws,
the model's own. -/
def sameCore (s t : State) : Prop :=
  t.v = s.v ∧ t.i = s.i ∧ t.pc = s.pc ∧ t.stack = s.stack ∧ t.sp = s.sp ∧ t.dt = s.dt ∧ t.st = s.st ∧ t.mem = s.mem ∧
    t.fb = s.fb ∧ t.keys = s.keys ∧ t.needsRedraw = s.needsRedraw ∧ t.config = s.config

/-- The invariant of R30: `I <= 0xFFF`, `pc <= 0x10FE`, every live return address at most `0x1000`; memory in its canonical
form. The other clauses of R30 are the types of State. -/
structure Inv (s : State) : Prop where
  mem : Memory.wf s.config.font s.mem
  index : s.i.toNat ≤ 0xFFF
  pc : s.pc.toNat ≤ 0x10FE
  stack : ∀ k : Fin 16, k.val < s.sp.val → (s.stack.get k).toNat ≤ 0x1000

/-- The states the host can bring the CORE to: every run begins with RESET (R242), under any
configuration (R6), and goes on with any transactions (R202). The infinite runs are `stateAt`; their states are these (Laws/Schedule.lean). -/
inductive Reachable : State → Prop where
  | reset (config : Config) : Reachable (State.resetWith config)
  | transact (t : Transaction) (s : State) : Reachable s → Reachable (transact t s).1

/-- A STEP of `s` completes (R231). -/
def completes (s : State) : Prop := ∃ t, step s = .next t

/-- A STEP of `s` completes and reports no unknown opcode (R231: "a claim may require never to occur"). -/
def cleanStep (s : State) : Prop := ∃ t, step s = .next t ∧ t.unknownOpcode = none

/-- An I-relative access of `count` bytes stays inside memory (R55). -/
def inRange (s : State) (count : Nat) : Prop := s.i.toNat + count ≤ 0x1000

/-- The one fault a form can raise in phase 3, and when (R210, R212, R219); `none` for a form that completes. -/
def faultOf (i : Instr) (s : State) : Option Fault :=
  match i with
  | .ret => if s.sp.val = 0 then some (.stackUnderflow s.pc) else none
  | .call _ => if s.sp.val = 16 then some (.stackOverflow s.pc) else none
  | .ldB _ => if s.i.toNat + 2 > 0xFFF then some (.outOfRange (lowestOffending s)) else none
  | .storeRegs x | .loadRegs x => if s.i.toNat + x.val > 0xFFF then some (.outOfRange (lowestOffending s)) else none
  | .drw _ _ n =>
    if n.toNat ≥ 1 ∧ s.i.toNat + n.toNat - 1 > 0xFFF then some (.outOfRange (lowestOffending s)) else none
  | .skp x | .sknp x => if (readV s x).toNat > 15 then some (.outOfRange (byteWord (readV s x))) else none
  | .cls | .sys _ | .jp _ | .seImm _ _ | .sneImm _ _ | .seReg _ _ | .ldImm _ _ | .addImm _ _ | .ldReg _ _ | .orReg _ _
  | .andReg _ _ | .xorReg _ _ | .addReg _ _ | .subReg _ _ | .shr _ _ | .subnReg _ _ | .shl _ _ | .sneReg _ _ | .ldI _
  | .jpV0 _ | .rnd _ _ | .ldVxDt _ | .ldVxK _ | .ldDtVx _ | .ldStVx _ | .addI _ | .ldF _ => none

/-- The opcode a STEP of `s` fetches, when `pc <= 0xFFE` (R81). -/
def opcodeAt (s : State) : Word := wordOfBytes (byteAt s s.pc.toNat) (byteAt s (s.pc.toNat + 1))

/-- `MemWrite` of one byte after another, stopping at the first that faults (R42). -/
def memWrites (s : State) (a : Nat) (bs : List Byte) : Except Fault State :=
  match bs with
  | [] => .ok s
  | b :: rest =>
    match memWrite s a b with
    | .ok t => memWrites t (a + 1) rest
    | .error f => .error f

/-- The bit a sprite puts on the grid pixel `(px, py)` (R170, R171): the sprite of height `n` at `I`, drawn with its top left
corner at `(V[x], V[y])`. -/
def spriteBit (s : State) (x y : RegNum) (n : BitVec 4) (px py : Nat) : Bool :=
  decide ((readV s x).toNat ≤ px ∧ px < (readV s x).toNat + 8) &&
    decide ((readV s y).toNat ≤ py ∧ py < (readV s y).toNat + n.toNat) &&
      (byteAt s (s.i.toNat + (py - (readV s y).toNat))).getLsbD (7 - (px - (readV s x).toNat))

end Sys2Proof.Machine
end

