-- ==== Sys2Proof/Certificates/Slice0/Obligations.lean ====
section
/-! DEFINITION. The statements for the provers. "The spec's decision D<n>" marks a clause that rests on a choice of
92_eei_decisions.md and not on the source; "log <n>" marks the model's own. -/

open Sys2Proof Sys2Proof.Machine

/-! ## Encoding -/

/-- Words written out from R66 and the vectors T-D1 to T-D25 decode to what they stand for, and the first bytes decode
big-endian (R61). -/
def Obligations.SpecWordsDecode : Prop :=
  decodeOp 0x00E0#16 = some .cls ∧ decodeOp 0x00EE#16 = some .ret ∧ decodeOp 0x00E1#16 = some (.sys 0x0E1#12) ∧
    decodeOp 0x1ABC#16 = some (.jp 0xABC#12) ∧ decodeOp 0x5120#16 = some (.seReg 1 2) ∧ decodeOp 0x5121#16 = none ∧
    decodeOp 0x8AB7#16 = some (.subnReg 10 11) ∧ decodeOp 0x8AB8#16 = none ∧ decodeOp 0x8ABE#16 = some (.shl 10 11) ∧
    decodeOp 0xCFFF#16 = some (.rnd 15 0xFF#8) ∧ decodeOp 0xD120#16 = some (.drw 1 2 0#4) ∧
    decodeOp 0xE1A1#16 = some (.sknp 1) ∧ decodeOp 0xF107#16 = some (.ldVxDt 1) ∧ decodeOp 0xFF65#16 = some (.loadRegs 15) ∧
    decode [0x6A#8, 0x2B#8, 0x00#8] = .ok (.ldImm 10 0x2B#8, [0x00#8])

/-- Decoding what was encoded gives the instruction back, with every operand at every value and the bytes after it untouched
(R62 to R66). -/
def Obligations.DecodeOfEncode : Prop :=
  ∀ (i : Instr) (rest : List Byte), i.wellFormed = true → decode (encodeBytes i ++ rest) = .ok (i, rest)

/-- A word that decodes, decodes to a well-formed instruction whose encoding is that word: no bit of a recognised word is
dropped (R62, R65). -/
def Obligations.EncodeOfDecode : Prop :=
  ∀ (op : Word) (i : Instr), decodeOp op = some i → i.wellFormed = true ∧ encode i = op

/-- The unknown encodings are exactly the five lines of R67 (strictness is the spec's decision D4). -/
def Obligations.UnknownEncodingsExactly : Prop :=
  ∀ op : Word, decodeOp op = none ↔
    (opTop op = 0x5#4 ∧ opN op ≠ 0#4) ∨
    (opTop op = 0x8#4 ∧ opN op ∈ [0x8#4, 0x9#4, 0xA#4, 0xB#4, 0xC#4, 0xD#4, 0xF#4]) ∨
    (opTop op = 0x9#4 ∧ opN op ≠ 0#4) ∨
    (opTop op = 0xE#4 ∧ opNN op ∉ [0x9E#8, 0xA1#8]) ∨
    (opTop op = 0xF#4 ∧ opNN op ∉ [0x07#8, 0x0A#8, 0x15#8, 0x18#8, 0x1E#8, 0x29#8, 0x33#8, 0x55#8, 0x65#8])

/-- The decoder agrees with the opcode map read as masks (R65: "a word matches a row of rule R66 when `op & mask = match`"): a word
is recognised exactly if some row matches it, the form it decodes to has a row that matches it, and no word but CLS's and
RET's, which also match SYS's row, matches two rows. -/
def Obligations.DecoderMatchesOpcodeMap : Prop :=
  (∀ op : Word, (decodeOp op).isSome = true ↔ ∃ r ∈ opcodeRows, op &&& r.1 = r.2) ∧
    (∀ (op : Word) (i : Instr), decodeOp op = some i → i.tableRow ∈ opcodeRows ∧ op &&& i.tableRow.1 = i.tableRow.2) ∧
    ∀ (op : Word) (r q : Word × Word), r ∈ opcodeRows → q ∈ opcodeRows → op &&& r.1 = r.2 → op &&& q.1 = q.2 →
      r = q ∨ op = 0x00E0#16 ∨ op = 0x00EE#16

/-! ## The step cycle -/

/-- A STEP runs the instruction its two bytes decode to, on the state with the outputs of the STEP before cleared, and then
ticks (R80, R95). -/
def Obligations.StepRunsDecodedInstruction : Prop :=
  ∀ (s : State) (i : Instr), s.pc.toNat ≤ 0xFFE →
    decode [byteAt s s.pc.toNat, byteAt s (s.pc.toNat + 1)] = .ok (i, []) →
    step s = thenTick (exec i (clearOutputs s))

/-- A STEP on an unknown opcode reports it, advances `pc` by 2, ticks, and changes nothing else (R87). -/
def Obligations.UnknownOpcodeIsReportedNop : Prop :=
  ∀ s : State, s.pc.toNat ≤ 0xFFE → decodeOp (opcodeAt s) = none →
    ∃ t, step s = .next t ∧ t.unknownOpcode = some (opcodeAt s) ∧ t.pc = s.pc + 2#16 ∧
      t.dt.toNat = s.dt.toNat - 1 ∧ t.st.toNat = s.st.toNat - 1 ∧ (t.soundTrigger = true ↔ s.st.toNat = 1) ∧
      keepsAllBut [.dt, .st, .report] s t ∧ regsKeptBut [] s t

/-- What a STEP adds after phase 3: both timers go down by 1 unless 0, the trigger fires exactly when `ST` was 1, and nothing else
changes (R88, R89). -/
def Obligations.TickAfterPhaseThree : Prop :=
  ∀ u : State, ∃ t, thenTick (.next u) = .next t ∧ t.dt.toNat = u.dt.toNat - 1 ∧ t.st.toNat = u.st.toNat - 1 ∧
    (t.soundTrigger = true ↔ u.st.toNat = 1) ∧ t.unknownOpcode = u.unknownOpcode ∧ t.pc = u.pc ∧
    keepsAllBut [.dt, .st, .report] u t ∧ regsKeptBut [] u t

/-- The timers across a STEP that completes: each ticks from the value LD DT,Vx or LD ST,Vx wrote in that STEP, otherwise from the
value before it, and the trigger fires exactly when the sound timer ticks from 1 (R21, R22, R89, R91; the spec's decisions
D8 and D26). -/
def Obligations.TimersAcrossStep : Prop :=
  ∀ s t : State, step s = .next t →
    ((∃ x, decodeOp (opcodeAt s) = some (.ldDtVx x) ∧ t.dt.toNat = (readV s x).toNat - 1) ∨
      ((∀ x, decodeOp (opcodeAt s) ≠ some (.ldDtVx x)) ∧ t.dt.toNat = s.dt.toNat - 1)) ∧
    ((∃ x, decodeOp (opcodeAt s) = some (.ldStVx x) ∧ t.st.toNat = (readV s x).toNat - 1 ∧
        (t.soundTrigger = true ↔ (readV s x).toNat = 1)) ∨
      ((∀ x, decodeOp (opcodeAt s) ≠ some (.ldStVx x)) ∧ t.st.toNat = s.st.toNat - 1 ∧
        (t.soundTrigger = true ↔ s.st.toNat = 1)))

/-- A STEP that completes reports its opcode exactly when the opcode is unknown or a SYS, and otherwise reports nothing
(R87, R90, R110). -/
def Obligations.DiagnosticExactly : Prop :=
  ∀ s t : State, step s = .next t →
    t.unknownOpcode =
      if decodeOp (opcodeAt s) = none ∨ ∃ nnn, decodeOp (opcodeAt s) = some (.sys nnn) then some (opcodeAt s) else none

/-- From every state a STEP completes or faults, and it faults exactly with the fetch's fault or the one fault of the decoded
form, on that form's condition (R210, R212, R219, R231). No STEP is refused. -/
def Obligations.StepFaultsExactly : Prop :=
  ∀ s : State, ((∃ t, step s = .next t) ∨ ∃ f, step s = .fault f) ∧
    ∀ f : Fault, step s = .fault f ↔
      (0xFFE < s.pc.toNat ∧ f = .invalidFetch s.pc) ∨
      (s.pc.toNat ≤ 0xFFE ∧ ∃ i, decodeOp (opcodeAt s) = some i ∧ faultOf i s = some f)

/-- The outputs of an earlier STEP are read by nothing (R10, R27; their place in State is the model's, log 3). -/
def Obligations.OldOutputsAreNotRead : Prop :=
  ∀ (s : State) (trigger : Bool) (op : Option Word),
    step { s with soundTrigger := trigger, unknownOpcode := op } = step s

/-- Nothing outside the state influences a STEP but the random byte, and that only in RND (R94): with another count of draws (the
model's free value, log 2) every other STEP ends the same. -/
def Obligations.RandomByteOnlyInRnd : Prop :=
  ∀ (s : State) (d : Nat), (∀ x nn, decodeOp (opcodeAt s) ≠ some (.rnd x nn)) →
    (∃ t, step s = .next t ∧ t.draws = s.draws ∧ step { s with draws := d } = .next { t with draws := d }) ∨
    ∃ f, step s = .fault f ∧ step { s with draws := d } = .fault f

/-- Who writes what (R10, R14, R24, R25, R26, and the model's own fields, logs 1 to 3): each part of the state changes in phase 3 of the named
instructions only; no instruction writes the keys or clears the redraw flag. -/
def Obligations.OnlyListedInstructionsWrite : Prop :=
  ∀ (i : Instr) (s t : State), exec i s = .next t →
    kept .keys s t ∧ kept .config s t ∧ (s.needsRedraw = true → t.needsRedraw = true) ∧ t.soundTrigger = s.soundTrigger ∧
    (kept .index s t ∨ (∃ nnn, i = .ldI nnn) ∨ (∃ x, i = .addI x) ∨ ∃ x, i = .ldF x) ∧
    (kept .memory s t ∨ (∃ x, i = .ldB x) ∨ ∃ x, i = .storeRegs x) ∧
    (kept .stack s t ∨ ∃ nnn, i = .call nnn) ∧
    (kept .sp s t ∨ i = .ret ∨ ∃ nnn, i = .call nnn) ∧
    (kept .dt s t ∨ ∃ x, i = .ldDtVx x) ∧
    (kept .st s t ∨ ∃ x, i = .ldStVx x) ∧
    ((kept .screen s t ∧ kept .redraw s t) ∨ i = .cls ∨ ∃ x y n, i = .drw x y n) ∧
    (t.unknownOpcode = s.unknownOpcode ∨ ∃ nnn, i = .sys nnn) ∧
    (kept .draws s t ∨ ∃ x nn, i = .rnd x nn)

/-- VF as a flag (R26): an instruction that changes `V[15]` is one of the seven flag writers or has register 15 as an ordinary
destination. -/
def Obligations.OnlyFlagWritersTouchVF : Prop :=
  ∀ (i : Instr) (s t : State), exec i s = .next t → readV t 15 ≠ readV s 15 →
    (∃ x y, i = .addReg x y ∨ i = .subReg x y ∨ i = .shr x y ∨ i = .subnReg x y ∨ i = .shl x y) ∨
    (∃ x, i = .addI x) ∨ (∃ x y n, i = .drw x y n) ∨
    (∃ nn, i = .ldImm 15 nn ∨ i = .addImm 15 nn ∨ i = .rnd 15 nn) ∨
    (∃ y, i = .ldReg 15 y ∨ i = .orReg 15 y ∨ i = .andReg 15 y ∨ i = .xorReg 15 y) ∨
    i = .ldVxDt 15 ∨ i = .ldVxK 15 ∨ i = .loadRegs 15

/-! ## Control flow -/

/-- CLS (R101; the flag also on a clear screen is the spec's decision D12). -/
def Obligations.ClsClearsScreen : Prop :=
  ∀ s : State, ∃ t, exec .cls s = .next t ∧ (∀ px py, px ≤ 63 → py ≤ 31 → pixel t px py = false) ∧
    t.needsRedraw = true ∧ t.pc = s.pc + 2#16 ∧ keepsAllBut [.screen, .redraw] s t ∧ regsKeptBut [] s t

/-- RET (R102, the spec's decisions D5 and D6): with `SP > 0` it takes the old top of the stack as `pc`, the slot keeps its value;
with `SP = 0` it faults. -/
def Obligations.RetPopsOrFaults : Prop :=
  ∀ s : State,
    (∀ k : Fin 16, s.sp.val = k.val + 1 → ∃ t, exec .ret s = .next t ∧ t.pc = s.stack.get k ∧ t.sp.val = k.val ∧
      keepsAllBut [.sp] s t ∧ regsKeptBut [] s t) ∧
    (s.sp.val = 0 → exec .ret s = .fault (.stackUnderflow s.pc))

/-- CALL (R104, the spec's decisions D5 and D6): with `SP < 16` it pushes `pc + 2` and jumps; with `SP = 16` it faults. -/
def Obligations.CallPushesOrFaults : Prop :=
  ∀ (nnn : BitVec 12) (s : State),
    (∀ k : Fin 16, s.sp.val = k.val → ∃ t, exec (.call nnn) s = .next t ∧ t.pc.toNat = nnn.toNat ∧ t.sp.val = k.val + 1 ∧
      t.stack.get k = s.pc + 2#16 ∧ (∀ j : Fin 16, j ≠ k → t.stack.get j = s.stack.get j) ∧
      keepsAllBut [.sp, .stack] s t ∧ regsKeptBut [] s t) ∧
    (s.sp.val = 16 → exec (.call nnn) s = .fault (.stackOverflow s.pc))

/-- The round trip of R102: a CALL and the RET after it leave `pc` 2 past the CALL and `SP` as it was. -/
def Obligations.CallThenRetRoundTrip : Prop :=
  ∀ (nnn : BitVec 12) (s : State), s.sp.val < 16 →
    ∃ t u, exec (.call nnn) s = .next t ∧ exec .ret t = .next u ∧ u.pc = s.pc + 2#16 ∧
      keepsAllBut [.stack] s u ∧ regsKeptBut [] s u

/-- SYS (R110, the spec's decisions D1 and D2): reports the opcode `0nnn` and advances. -/
def Obligations.SysIsReportedNop : Prop :=
  ∀ (nnn : BitVec 12) (s : State), ∃ t w, exec (.sys nnn) s = .next t ∧ t.unknownOpcode = some w ∧ w.toNat = nnn.toNat ∧
    t.soundTrigger = s.soundTrigger ∧ t.pc = s.pc + 2#16 ∧ keepsAllBut [.report] s t ∧ regsKeptBut [] s t

/-- JP (R103). -/
def Obligations.JpSetsPc : Prop :=
  ∀ (nnn : BitVec 12) (s : State), ∃ t, exec (.jp nnn) s = .next t ∧ t.pc.toNat = nnn.toNat ∧
    keepsAllBut [] s t ∧ regsKeptBut [] s t

/-- JP V0 (R109; not reduced modulo 4096 is the spec's decision D17). -/
def Obligations.JpV0AddsOffset : Prop :=
  ∀ (nnn : BitVec 12) (s : State), ∃ t, exec (.jpV0 nnn) s = .next t ∧ t.pc.toNat = nnn.toNat + (readV s 0).toNat ∧
    keepsAllBut [] s t ∧ regsKeptBut [] s t

/-- SE Vx,nn and SNE Vx,nn (R105, R106). -/
def Obligations.SkipOnImmediate : Prop :=
  ∀ (x : RegNum) (nn : Byte) (s : State),
    (∃ t, exec (.seImm x nn) s = .next t ∧ t.pc = (if readV s x = nn then s.pc + 4#16 else s.pc + 2#16) ∧
      keepsAllBut [] s t ∧ regsKeptBut [] s t) ∧
    (∃ t, exec (.sneImm x nn) s = .next t ∧ t.pc = (if readV s x = nn then s.pc + 2#16 else s.pc + 4#16) ∧
      keepsAllBut [] s t ∧ regsKeptBut [] s t)

/-- SE Vx,Vy and SNE Vx,Vy (R107, R108; that SNE Vx,Vy is a form is the spec's decision D1). -/
def Obligations.SkipOnRegisters : Prop :=
  ∀ (x y : RegNum) (s : State),
    (∃ t, exec (.seReg x y) s = .next t ∧ t.pc = (if readV s x = readV s y then s.pc + 4#16 else s.pc + 2#16) ∧
      keepsAllBut [] s t ∧ regsKeptBut [] s t) ∧
    (∃ t, exec (.sneReg x y) s = .next t ∧ t.pc = (if readV s x = readV s y then s.pc + 2#16 else s.pc + 4#16) ∧
      keepsAllBut [] s t ∧ regsKeptBut [] s t)

/-! ## Register-immediate and ALU -/

/-- LD Vx,nn and LD Vx,Vy (R120, R131). -/
def Obligations.RegisterLoads : Prop :=
  ∀ (x y : RegNum) (nn : Byte) (s : State),
    (∃ t, exec (.ldImm x nn) s = .next t ∧ readV t x = nn ∧ t.pc = s.pc + 2#16 ∧
      keepsAllBut [] s t ∧ regsKeptBut [x] s t) ∧
    (∃ t, exec (.ldReg x y) s = .next t ∧ readV t x = readV s y ∧ t.pc = s.pc + 2#16 ∧
      keepsAllBut [] s t ∧ regsKeptBut [x] s t)

/-- ADD Vx,nn (R121; VF not written is the spec's decision D28). -/
def Obligations.AddImmWraps : Prop :=
  ∀ (x : RegNum) (nn : Byte) (s : State), ∃ t, exec (.addImm x nn) s = .next t ∧
    (readV t x).toNat = ((readV s x).toNat + nn.toNat) % 256 ∧ t.pc = s.pc + 2#16 ∧
    keepsAllBut [] s t ∧ regsKeptBut [x] s t

/-- OR, AND, XOR, bit by bit (R132 to R134; VF not written is the spec's decision D28). -/
def Obligations.LogicCombinesBits : Prop :=
  ∀ (x y : RegNum) (s : State),
    (∃ t, exec (.orReg x y) s = .next t ∧
      (∀ k, (readV t x).getLsbD k = ((readV s x).getLsbD k || (readV s y).getLsbD k)) ∧ t.pc = s.pc + 2#16 ∧
      keepsAllBut [] s t ∧ regsKeptBut [x] s t) ∧
    (∃ t, exec (.andReg x y) s = .next t ∧
      (∀ k, (readV t x).getLsbD k = ((readV s x).getLsbD k && (readV s y).getLsbD k)) ∧ t.pc = s.pc + 2#16 ∧
      keepsAllBut [] s t ∧ regsKeptBut [x] s t) ∧
    (∃ t, exec (.xorReg x y) s = .next t ∧
      (∀ k, (readV t x).getLsbD k = ((readV s x).getLsbD k != (readV s y).getLsbD k)) ∧ t.pc = s.pc + 2#16 ∧
      keepsAllBut [] s t ∧ regsKeptBut [x] s t)

/-- ADD Vx,Vy (R135): the sum modulo 256 and the carry, also when `x` or `y` is 15: the result lands last (R130, the spec's
decision D9). -/
def Obligations.AddRegSumAndCarry : Prop :=
  ∀ (x y : RegNum) (s : State), ∃ t, exec (.addReg x y) s = .next t ∧
    (readV t x).toNat = ((readV s x).toNat + (readV s y).toNat) % 256 ∧
    (x ≠ 15 → (readV t 15).toNat = if (readV s x).toNat + (readV s y).toNat > 255 then 1 else 0) ∧
    t.pc = s.pc + 2#16 ∧ keepsAllBut [] s t ∧ regsKeptBut [x, 15] s t

/-- SUB and SUBN (R136, R138): the difference modulo 256 and the inverse of the borrow; with `x = 15` the result lands last (R130, the
spec's decision D9). -/
def Obligations.SubtractAndNoBorrow : Prop :=
  ∀ (x y : RegNum) (s : State),
    (∃ t, exec (.subReg x y) s = .next t ∧
      ((readV t x).toNat : Int) = (((readV s x).toNat : Int) - (readV s y).toNat) % 256 ∧
      (x ≠ 15 → (readV t 15).toNat = if (readV s x).toNat ≥ (readV s y).toNat then 1 else 0) ∧
      t.pc = s.pc + 2#16 ∧ keepsAllBut [] s t ∧ regsKeptBut [x, 15] s t) ∧
    (∃ t, exec (.subnReg x y) s = .next t ∧
      ((readV t x).toNat : Int) = (((readV s y).toNat : Int) - (readV s x).toNat) % 256 ∧
      (x ≠ 15 → (readV t 15).toNat = if (readV s y).toNat ≥ (readV s x).toNat then 1 else 0) ∧
      t.pc = s.pc + 2#16 ∧ keepsAllBut [] s t ∧ regsKeptBut [x, 15] s t)

/-- SHR and SHL (R137, R139): one position, 0 shifted in, the bit shifted out in VF; `V[y]` plays no part; with `x = 15` the result
lands last (R130, the spec's decision D9). -/
def Obligations.ShiftByOne : Prop :=
  ∀ (x y : RegNum) (s : State),
    (∃ t, exec (.shr x y) s = .next t ∧ (readV t x).toNat = (readV s x).toNat / 2 ∧
      (x ≠ 15 → (readV t 15).toNat = (readV s x).toNat % 2) ∧
      t.pc = s.pc + 2#16 ∧ keepsAllBut [] s t ∧ regsKeptBut [x, 15] s t) ∧
    (∃ t, exec (.shl x y) s = .next t ∧ (readV t x).toNat = (readV s x).toNat * 2 % 256 ∧
      (x ≠ 15 → (readV t 15).toNat = (readV s x).toNat / 128) ∧
      t.pc = s.pc + 2#16 ∧ keepsAllBut [] s t ∧ regsKeptBut [x, 15] s t)

/-! ## Memory, index, random, block -/

/-- `MemWrite` (R42) in a canonical memory: inside memory the byte is read back, no other byte changes, the form is kept; above
`0xFFF` it faults. The canonical form is the model's representation (log 10), and so is the information word, the address in
16 bits (log 17). -/
def Obligations.MemWriteChangesOneByte : Prop :=
  ∀ (s : State) (a : Nat) (b : Byte), Memory.wf s.config.font s.mem →
    (a ≤ 0xFFF → ∃ t, memWrite s a b = .ok t ∧ byteAt t a = b ∧ (∀ c, c ≠ a → byteAt t c = byteAt s c) ∧
      Memory.wf t.config.font t.mem ∧ t.pc = s.pc ∧ keepsAllBut [.memory] s t ∧ regsKeptBut [] s t) ∧
    (a > 0xFFF → memWrite s a b = .error (.outOfRange (BitVec.ofNat 16 a)))

/-- Two canonical memories that read the same everywhere are the same data (the model's representation, log 10). -/
def Obligations.CanonicalMemoriesAreEqual : Prop :=
  ∀ (font : Font) (m n : Memory), Memory.wf font m → Memory.wf font n →
    (∀ a, Memory.read font m a = Memory.read font n a) → m = n

/-- LD B and LD [I] check their range first (R50); this ends the same, the fault's address included, as one `MemWrite` after
another in increasing order. -/
def Obligations.StoresAreMemWritesInOrder : Prop :=
  ∀ (x : RegNum) (s : State),
    (exec (.ldB x) s =
      match memWrites s s.i.toNat (bcdDigits (readV s x)) with
      | .ok t => .next (advance t)
      | .error f => .fault f) ∧
    (exec (.storeRegs x) s =
      match memWrites s s.i.toNat (regBlock s x) with
      | .ok t => .next (advance t)
      | .error f => .fault f)

/-- LD I,nnn (R151). -/
def Obligations.LdISetsIndex : Prop :=
  ∀ (nnn : BitVec 12) (s : State), ∃ t, exec (.ldI nnn) s = .next t ∧ t.i.toNat = nnn.toNat ∧ t.pc = s.pc + 2#16 ∧
    keepsAllBut [.index] s t ∧ regsKeptBut [] s t

/-- ADD I,Vx (R152): modulo 4096, VF the overflow, for `x = 15` too. -/
def Obligations.AddIWrapsAndFlags : Prop :=
  ∀ (x : RegNum) (s : State), ∃ t, exec (.addI x) s = .next t ∧
    t.i.toNat = (s.i.toNat + (readV s x).toNat) % 4096 ∧
    (readV t 15).toNat = (if s.i.toNat + (readV s x).toNat > 0xFFF then 1 else 0) ∧ t.pc = s.pc + 2#16 ∧
    keepsAllBut [.index] s t ∧ regsKeptBut [15] s t

/-- RND (R153, the spec's decision D16): the result is a draw masked by `nn`. The draw is the model's free value (log 2): for every
count of draws, and nothing is known of the byte. -/
def Obligations.RndMasksTheDraw : Prop :=
  ∀ (x : RegNum) (nn : Byte) (s : State), ∃ t, exec (.rnd x nn) s = .next t ∧
    (∀ k, (readV t x).getLsbD k = ((Config.freeRnd s.draws).getLsbD k && nn.getLsbD k)) ∧ t.draws = s.draws + 1 ∧
    t.pc = s.pc + 2#16 ∧ keepsAllBut [.draws] s t ∧ regsKeptBut [x] s t

/-- LD F,Vx (R154; the low nibble for values above `0x0F` is the spec's decision D13). -/
def Obligations.LdFPointsAtGlyph : Prop :=
  ∀ (x : RegNum) (s : State), ∃ t, exec (.ldF x) s = .next t ∧ t.i.toNat = 5 * ((readV s x).toNat % 16) ∧
    t.pc = s.pc + 2#16 ∧ keepsAllBut [.index] s t ∧ regsKeptBut [] s t

/-- LD B,Vx (R155) in a canonical memory with the three bytes inside it: hundreds, tens, ones at `I`, `I+1`, `I+2`, every other byte as
before. -/
def Obligations.LdBStoresDigits : Prop :=
  ∀ (x : RegNum) (s : State), Memory.wf s.config.font s.mem → s.i.toNat + 2 ≤ 0xFFF → ∃ t, exec (.ldB x) s = .next t ∧
    (byteAt t s.i.toNat).toNat = (readV s x).toNat / 100 ∧
    (byteAt t (s.i.toNat + 1)).toNat = (readV s x).toNat / 10 % 10 ∧
    (byteAt t (s.i.toNat + 2)).toNat = (readV s x).toNat % 10 ∧
    (∀ a, a < s.i.toNat ∨ s.i.toNat + 3 ≤ a → byteAt t a = byteAt s a) ∧ t.pc = s.pc + 2#16 ∧
    keepsAllBut [.memory] s t ∧ regsKeptBut [] s t

/-- LD [I],Vx (R156) in a canonical memory with the block inside it: `V[k]` at `I + k` for `k <= x`, every other byte, `I` and the
registers as before. -/
def Obligations.StoreRegsStoresBlock : Prop :=
  ∀ (x : RegNum) (s : State), Memory.wf s.config.font s.mem → s.i.toNat + x.val ≤ 0xFFF → ∃ t, exec (.storeRegs x) s = .next t ∧
    (∀ k : RegNum, k ≤ x → byteAt t (s.i.toNat + k.val) = readV s k) ∧
    (∀ a, a < s.i.toNat ∨ s.i.toNat + x.val < a → byteAt t a = byteAt s a) ∧ t.pc = s.pc + 2#16 ∧
    keepsAllBut [.memory] s t ∧ regsKeptBut [] s t

/-- LD Vx,[I] (R157) with the block inside memory: `V[k]` is the byte at `I + k` for `k <= x`, the other registers, memory and `I` as
before. -/
def Obligations.LoadRegsLoadsBlock : Prop :=
  ∀ (x : RegNum) (s : State), s.i.toNat + x.val ≤ 0xFFF → ∃ t, exec (.loadRegs x) s = .next t ∧
    (∀ k : RegNum, readV t k = if k ≤ x then byteAt s (s.i.toNat + k.val) else readV s k) ∧ t.pc = s.pc + 2#16 ∧
    keepsAllBut [] s t

/-- The property of R157: a block stored and loaded back at the same index leaves every register and the index as they were. -/
def Obligations.StoreThenLoadKeepsRegisters : Prop :=
  ∀ (x : RegNum) (s : State), Memory.wf s.config.font s.mem → s.i.toNat + x.val ≤ 0xFFF →
    ∃ t u, exec (.storeRegs x) s = .next t ∧ exec (.loadRegs x) t = .next u ∧ regsKeptBut [] s u ∧ u.i = s.i

/-- The address fault (R150, R175, R212; all-or-nothing is the spec's decision D22): each form that touches bytes above `0xFFF`
faults with the lowest of them, `max(I, 0x1000)`. -/
def Obligations.AddressFaults : Prop :=
  ∀ (x y : RegNum) (n : BitVec 4) (s : State), ∃ w : Word, w.toNat = max s.i.toNat 0x1000 ∧
    (s.i.toNat + 2 > 0xFFF → exec (.ldB x) s = .fault (.outOfRange w)) ∧
    (s.i.toNat + x.val > 0xFFF →
      exec (.storeRegs x) s = .fault (.outOfRange w) ∧ exec (.loadRegs x) s = .fault (.outOfRange w)) ∧
    (n.toNat ≥ 1 → s.i.toNat + n.toNat - 1 > 0xFFF → exec (.drw x y n) s = .fault (.outOfRange w))

/-! ## Sprite draw -/

/-- DRW (R170 to R174, R176): with the rows inside memory or none at all, every grid pixel is inverted exactly where the sprite has
a 1 bit, off-grid bits do nothing (the spec's decision D10), VF is 1 exactly when a set bit met a lit pixel, and the redraw
flag is set (D12). Height 0 is the same statement with no rows (D11). -/
def Obligations.DrwXorsSprite : Prop :=
  ∀ (x y : RegNum) (n : BitVec 4) (s : State), n.toNat = 0 ∨ s.i.toNat + n.toNat - 1 ≤ 0xFFF →
    ∃ t, exec (.drw x y n) s = .next t ∧
      (∀ px py, px ≤ 63 → py ≤ 31 → pixel t px py = (pixel s px py != spriteBit s x y n px py)) ∧
      ((∃ px py, px ≤ 63 ∧ py ≤ 31 ∧ pixel s px py = true ∧ spriteBit s x y n px py = true) → readV t 15 = 1#8) ∧
      ((∀ px py, px ≤ 63 → py ≤ 31 → pixel s px py = true → spriteBit s x y n px py = false) → readV t 15 = 0#8) ∧
      t.needsRedraw = true ∧ t.pc = s.pc + 2#16 ∧ keepsAllBut [.screen, .redraw] s t ∧ regsKeptBut [15] s t

/-- The property of R170: the same sprite drawn twice at the same coordinates gives the framebuffer back, and the second draw reports
a collision exactly when some set bit of the sprite lies on a grid pixel that was off at the start, since the first draw
turned exactly those on (R173; on a blank screen: when the sprite has a set bit on the grid). Coordinates in VF are left
out: the first draw replaces them, and each draw is then DrwXorsSprite's. -/
def Obligations.DrwTwiceRestoresScreen : Prop :=
  ∀ (x y : RegNum) (n : BitVec 4) (s : State), x ≠ 15 → y ≠ 15 → n.toNat = 0 ∨ s.i.toNat + n.toNat - 1 ≤ 0xFFF →
    ∃ t u, exec (.drw x y n) s = .next t ∧ exec (.drw x y n) t = .next u ∧ u.fb = s.fb ∧
      (readV u 15 = 1#8 ↔
        ∃ px py, px ≤ 63 ∧ py ≤ 31 ∧ pixel s px py = false ∧ spriteBit s x y n px py = true)

/-! ## Timers and keys -/

/-- LD Vx,DT, LD DT,Vx, LD ST,Vx, phase 3 (R180 to R182). -/
def Obligations.TimerMoves : Prop :=
  ∀ (x : RegNum) (s : State),
    (∃ t, exec (.ldVxDt x) s = .next t ∧ readV t x = s.dt ∧ t.pc = s.pc + 2#16 ∧
      keepsAllBut [] s t ∧ regsKeptBut [x] s t) ∧
    (∃ t, exec (.ldDtVx x) s = .next t ∧ t.dt = readV s x ∧ t.pc = s.pc + 2#16 ∧
      keepsAllBut [.dt] s t ∧ regsKeptBut [] s t) ∧
    (∃ t, exec (.ldStVx x) s = .next t ∧ t.st = readV s x ∧ t.pc = s.pc + 2#16 ∧
      keepsAllBut [.st] s t ∧ regsKeptBut [] s t)

/-- SKP and SKNP (R183, R184): they skip on the level of the key `V[x]`; a key number above 15 faults with it as information (R186, the
spec's decision D14). -/
def Obligations.SkipOnKey : Prop :=
  ∀ (x : RegNum) (s : State),
    (∀ k : Fin 16, (readV s x).toNat = k.val →
      (∃ t, exec (.skp x) s = .next t ∧ t.pc = (if keyDown s k = true then s.pc + 4#16 else s.pc + 2#16) ∧
        keepsAllBut [] s t ∧ regsKeptBut [] s t) ∧
      (∃ t, exec (.sknp x) s = .next t ∧ t.pc = (if keyDown s k = true then s.pc + 2#16 else s.pc + 4#16) ∧
        keepsAllBut [] s t ∧ regsKeptBut [] s t)) ∧
    (15 < (readV s x).toNat → ∃ w : Word, w.toNat = (readV s x).toNat ∧
      exec (.skp x) s = .fault (.outOfRange w) ∧ exec (.sknp x) s = .fault (.outOfRange w))

/-- LD Vx,K (R185; the lowest number among several keys is the spec's decision D15): with no key pressed phase 3 changes nothing;
otherwise `V[x]` is the least pressed key. -/
def Obligations.KeyWait : Prop :=
  ∀ (x : RegNum) (s : State),
    ((∀ k : Fin 16, keyDown s k = false) → exec (.ldVxK x) s = .next s) ∧
    (∀ k : Fin 16, keyDown s k = true → (∀ j : Fin 16, j < k → keyDown s j = false) →
      ∃ t, exec (.ldVxK x) s = .next t ∧ (readV t x).toNat = k.val ∧ t.pc = s.pc + 2#16 ∧
        keepsAllBut [] s t ∧ regsKeptBut [x] s t)

/-- A STEP on a blocked LD Vx,K changes nothing but the timers, which tick (R88, R93, R247; the spec's decision D8). -/
def Obligations.BlockedKeyWaitStep : Prop :=
  ∀ (x : RegNum) (s : State), s.pc.toNat ≤ 0xFFE → decodeOp (opcodeAt s) = some (.ldVxK x) →
    (∀ k : Fin 16, keyDown s k = false) →
    ∃ t, step s = .next t ∧ t.pc = s.pc ∧ t.dt.toNat = s.dt.toNat - 1 ∧ t.st.toNat = s.st.toNat - 1 ∧
      t.unknownOpcode = none ∧ (t.soundTrigger = true ↔ s.st.toNat = 1) ∧
      keepsAllBut [.dt, .st, .report] s t ∧ regsKeptBut [] s t

/-! ## Reset, the host's transactions, faults over a run -/

/-- The state after RESET (R29), for every configuration (R6; its place in State is the model's, log 1): registers, timers and stack
pointer 0, `pc = 0x200`, memory clear but for the font, and (the spec's decision D21) index, stack slots, pixels, keys and
redraw flag zero. The outputs and the count of draws, the model's own, are not stated. -/
def Obligations.ResetValues : Prop :=
  ∀ config : Config,
    (∀ r : RegNum, readV (State.resetWith config) r = 0#8) ∧ (State.resetWith config).i = 0#16 ∧
    (State.resetWith config).pc = 0x200#16 ∧ (∀ k : Fin 16, (State.resetWith config).stack.get k = 0#16) ∧
    (State.resetWith config).sp = 0 ∧ (State.resetWith config).dt = 0#8 ∧ (State.resetWith config).st = 0#8 ∧
    (∀ k : Fin 80, byteAt (State.resetWith config) k.val = config.font.get k) ∧
    (∀ a, 80 ≤ a → a ≤ 0xFFF → byteAt (State.resetWith config) a = 0#8) ∧
    (∀ px py, px ≤ 63 → py ≤ 31 → pixel (State.resetWith config) px py = false) ∧
    (∀ k : Fin 16, keyDown (State.resetWith config) k = false) ∧ (State.resetWith config).needsRedraw = false

/-- The reset state meets the invariant of R30, for every configuration. -/
def Obligations.ResetMeetsInv : Prop := Inv State.reset ∧ ∀ config : Config, Inv (State.resetWith config)

/-- Every STEP keeps the invariant of R30, from every state that meets it. -/
def Obligations.StepKeepsInv : Prop := ∀ s t : State, Inv s → step s = .next t → Inv t

/-- The invariant of R30 holds in every state the host can bring the CORE to, under any configuration, by any transactions in any
order, and at every point of the run of any infinite schedule (R202; the canonical form in it is the model's, log 10). -/
def Obligations.ReachableMeetsInv : Prop :=
  (∀ s : State, Reachable s → Inv s) ∧
    ∀ (config : Config) (schedule : Nat → Transaction) (n : Nat), Inv (stateAt schedule (State.resetWith config) n)

/-- RESET, KEY and ACK_REDRAW (R196, R198, R199): RESET gives every field its reset value under the same
configuration, always, and two equal one; KEY sets one key
and fails on an index above 15; ACK_REDRAW clears the redraw flag. Nothing else changes. -/
def Obligations.ResetKeyAckTransactions : Prop :=
  ∀ s : State,
    (∃ t, transact .reset s = (t, .done) ∧ sameCore (State.resetWith s.config) t ∧ transact .reset t = (t, .done)) ∧
    (∀ (k : Fin 16) (pressed : Bool), ∃ t, transact (.key k.val pressed) s = (t, .done) ∧ keyDown t k = pressed ∧
      (∀ j : Fin 16, j ≠ k → keyDown t j = keyDown s j) ∧ t.pc = s.pc ∧ keepsAllBut [.keys] s t ∧ regsKeptBut [] s t) ∧
    (∀ (k : Nat) (pressed : Bool), 15 < k → transact (.key k pressed) s = (s, .failed (.outOfRange k))) ∧
    (∃ t, transact .ackRedraw s = (t, .done) ∧ t.needsRedraw = false ∧ t.pc = s.pc ∧
      keepsAllBut [.redraw] s t ∧ regsKeptBut [] s t)

/-- LOAD (R197) in a canonical memory: up to 3584 bytes are copied verbatim to `0x200` up and nothing else changes; more fail and
change nothing. -/
def Obligations.LoadCopiesProgram : Prop :=
  ∀ (bytes : List Byte) (s : State), Memory.wf s.config.font s.mem →
    (bytes.length ≤ 3584 → ∃ t, transact (.load bytes) s = (t, .done) ∧
      (∀ (k : Nat) (h : k < bytes.length), byteAt t (0x200 + k) = bytes[k]) ∧
      (∀ a, a < 0x200 ∨ 0x200 + bytes.length ≤ a → byteAt t a = byteAt s a) ∧ t.pc = s.pc ∧
      keepsAllBut [.memory] s t ∧ regsKeptBut [] s t) ∧
    (3584 < bytes.length → transact (.load bytes) s = (s, .failed .programTooLarge))

/-- STEP as a transaction (R86, R90, R200, R213): a STEP that completes returns its outputs and no fault; one that faults leaves the
state as it was, with the unchanged flag, no trigger and no diagnostic. -/
def Obligations.StepTransactionResult : Prop :=
  ∀ s : State,
    (∀ t, step s = .next t →
      transact .step s = (t, .stepped ⟨t.needsRedraw, t.soundTrigger, t.unknownOpcode, none⟩)) ∧
    (∀ f, step s = .fault f → transact .step s = (s, .stepped ⟨s.needsRedraw, false, none, some f⟩))

/-- OBSERVE (R201): it changes nothing, it gives the field's value, and an index outside the field's range fails. -/
def Obligations.ObserveReadsOnly : Prop :=
  ∀ s : State, (∀ p : Probe, (transact (.observe p) s).1 = s) ∧
    (∀ r : RegNum, observe (.v r.val) s = .ok (readV s r).toNat) ∧
    (∀ k : Fin 16, observe (.stack k.val) s = .ok (s.stack.get k).toNat) ∧
    (∀ k : Fin 16, observe (.key k.val) s = .ok (keyDown s k).toNat) ∧
    (∀ a, a ≤ 0xFFF → observe (.mem a) s = .ok (byteAt s a).toNat) ∧
    (∀ px py, px ≤ 63 → py ≤ 31 → observe (.fb (py * 64 + px)) s = .ok (pixel s px py).toNat) ∧
    (observe .i s = .ok s.i.toNat ∧ observe .pc s = .ok s.pc.toNat ∧ observe .sp s = .ok s.sp.val ∧
      observe .dt s = .ok s.dt.toNat ∧ observe .st s = .ok s.st.toNat ∧
      observe .needsRedraw s = .ok s.needsRedraw.toNat) ∧
    (∀ k, 15 < k → observe (.v k) s = .error (.outOfRange k) ∧ observe (.stack k) s = .error (.outOfRange k) ∧
      observe (.key k) s = .error (.outOfRange k)) ∧
    (∀ a, 0xFFF < a → observe (.mem a) s = .error (.outOfRange a)) ∧
    (∀ k, 2047 < k → observe (.fb k) s = .error (.outOfRange k))

/-- A fault is persistent (R221, R229): after a STEP that faulted, any STEPs, KEYs, ACK_REDRAWs and OBSERVEs leave the next STEP with the
same fault. LOAD is left out: it can replace the instruction at `pc` (log 12). -/
def Obligations.FaultIsPersistent : Prop :=
  ∀ (ts : List Transaction) (s : State) (f : Fault), step s = .fault f →
    (∀ t ∈ ts, t ≠ .reset ∧ ∀ bytes, t ≠ .load bytes) → step (runSchedule ts s) = .fault f

/-- The halt idiom (R103, R253): a JP to its own address completes and leaves everything but the timers as it was; with both
timers 0 it leaves all eleven fields as they were. -/
def Obligations.JumpToSelfIsFixedPoint : Prop :=
  ∀ (nnn : BitVec 12) (s : State), decodeOp (opcodeAt s) = some (.jp nnn) → s.pc.toNat = nnn.toNat → s.pc.toNat ≤ 0xFFE →
    ∃ t, step s = .next t ∧ t.pc = s.pc ∧ t.dt.toNat = s.dt.toNat - 1 ∧ t.st.toNat = s.st.toNat - 1 ∧
      keepsAllBut [.dt, .st, .report] s t ∧ regsKeptBut [] s t ∧ (s.dt = 0#8 → s.st = 0#8 → sameCore s t)

/-! ## Over all transactions -/

/-- Every transaction of the host, with any arguments, keeps the invariant of R30, from every state that meets it; the canonical form
in it is the model's (log 10). -/
def Obligations.TransactionKeepsInv : Prop := ∀ (t : Transaction) (s : State), Inv s → Inv (transact t s).1

/-- The parameters of R6 (a) are parameters: no transaction, whatever instruction it runs, changes the configuration (its place in
State is the model's, log 1). -/
def Obligations.TransactionKeepsConfig : Prop := ∀ (t : Transaction) (s : State), (transact t s).1.config = s.config
end

