-- ==== Sys2Proof/Laws/Decode.lean ====
section
/-! SUPPORT. The fields of an encoded word (R62, R63): each field read back is the field put in. -/

namespace Sys2Proof

@[simp] theorem regBits_zero : regBits 0 = 0#4 := rfl

@[simp] theorem regBits_toFin (x : RegNum) : (regBits x).toFin = x := rfl

@[simp] theorem regBits_ofToFin (b : BitVec 4) : regBits b.toFin = b := rfl

theorem wordOfBytes_bytesOfWord (op : Word) : wordOfBytes (op.extractLsb' 8 8) (op.extractLsb' 0 8) = op := by
  apply BitVec.eq_of_getLsbD_eq
  intro k hk
  simp only [wordOfBytes, BitVec.getLsbD_append, BitVec.getLsbD_extractLsb']
  interval_cases k <;> simp

@[simp] theorem opTop_encNNN (top : BitVec 4) (nnn : BitVec 12) : opTop (encNNN top nnn) = top := by
  apply BitVec.eq_of_getLsbD_eq
  intro k hk
  simp only [opTop, encNNN, BitVec.getLsbD_append, BitVec.getLsbD_extractLsb']
  interval_cases k <;> simp

@[simp] theorem opNNN_encNNN (top : BitVec 4) (nnn : BitVec 12) : opNNN (encNNN top nnn) = nnn := by
  apply BitVec.eq_of_getLsbD_eq
  intro k hk
  simp only [opNNN, encNNN, BitVec.getLsbD_append, BitVec.getLsbD_extractLsb']
  interval_cases k <;> simp

@[simp] theorem opTop_encXNN (top : BitVec 4) (x : RegNum) (nn : Byte) : opTop (encXNN top x nn) = top := by
  apply BitVec.eq_of_getLsbD_eq
  intro k hk
  simp only [opTop, encXNN, BitVec.getLsbD_append, BitVec.getLsbD_extractLsb']
  interval_cases k <;> simp

@[simp] theorem opX_encXNN (top : BitVec 4) (x : RegNum) (nn : Byte) : opX (encXNN top x nn) = x := by
  have h : (encXNN top x nn).extractLsb' 8 4 = regBits x := by
    apply BitVec.eq_of_getLsbD_eq
    intro k hk
    simp only [encXNN, BitVec.getLsbD_append, BitVec.getLsbD_extractLsb']
    interval_cases k <;> simp
  rw [opX, h, regBits_toFin]

@[simp] theorem opNN_encXNN (top : BitVec 4) (x : RegNum) (nn : Byte) : opNN (encXNN top x nn) = nn := by
  apply BitVec.eq_of_getLsbD_eq
  intro k hk
  simp only [opNN, encXNN, BitVec.getLsbD_append, BitVec.getLsbD_extractLsb']
  interval_cases k <;> simp

@[simp] theorem opTop_encXYN (top : BitVec 4) (x y : RegNum) (n : BitVec 4) : opTop (encXYN top x y n) = top := by
  apply BitVec.eq_of_getLsbD_eq
  intro k hk
  simp only [opTop, encXYN, BitVec.getLsbD_append, BitVec.getLsbD_extractLsb']
  interval_cases k <;> simp

@[simp] theorem opX_encXYN (top : BitVec 4) (x y : RegNum) (n : BitVec 4) : opX (encXYN top x y n) = x := by
  have h : (encXYN top x y n).extractLsb' 8 4 = regBits x := by
    apply BitVec.eq_of_getLsbD_eq
    intro k hk
    simp only [encXYN, BitVec.getLsbD_append, BitVec.getLsbD_extractLsb']
    interval_cases k <;> simp
  rw [opX, h, regBits_toFin]

@[simp] theorem opY_encXYN (top : BitVec 4) (x y : RegNum) (n : BitVec 4) : opY (encXYN top x y n) = y := by
  have h : (encXYN top x y n).extractLsb' 4 4 = regBits y := by
    apply BitVec.eq_of_getLsbD_eq
    intro k hk
    simp only [encXYN, BitVec.getLsbD_append, BitVec.getLsbD_extractLsb']
    interval_cases k <;> simp
  rw [opY, h, regBits_toFin]

@[simp] theorem opN_encXYN (top : BitVec 4) (x y : RegNum) (n : BitVec 4) : opN (encXYN top x y n) = n := by
  apply BitVec.eq_of_getLsbD_eq
  intro k hk
  simp only [opN, encXYN, BitVec.getLsbD_append, BitVec.getLsbD_extractLsb']
  interval_cases k <;> simp

/-! The constant bits of each format, as a mask leaves them (R66). -/

theorem encNNN_mask (top : BitVec 4) (nnn : BitVec 12) : encNNN top nnn &&& 0xF000#16 = encNNN top 0#12 := by
  apply BitVec.eq_of_getLsbD_eq
  intro k hk
  simp only [encNNN, BitVec.getLsbD_and, BitVec.getLsbD_append]
  interval_cases k <;> simp

theorem encXNN_mask (top : BitVec 4) (x : RegNum) (nn : Byte) :
    encXNN top x nn &&& 0xF000#16 = encXNN top 0 0#8 := by
  apply BitVec.eq_of_getLsbD_eq
  intro k hk
  simp only [encXNN, BitVec.getLsbD_and, BitVec.getLsbD_append]
  interval_cases k <;> simp

theorem encXKK_mask (top : BitVec 4) (x : RegNum) (nn : Byte) : encXNN top x nn &&& 0xF0FF#16 = encXNN top 0 nn := by
  apply BitVec.eq_of_getLsbD_eq
  intro k hk
  simp only [encXNN, BitVec.getLsbD_and, BitVec.getLsbD_append]
  interval_cases k <;> simp

theorem encXYN_mask (top : BitVec 4) (x y : RegNum) (n : BitVec 4) :
    encXYN top x y n &&& 0xF00F#16 = encXYN top 0 0 n := by
  apply BitVec.eq_of_getLsbD_eq
  intro k hk
  simp only [encXYN, BitVec.getLsbD_and, BitVec.getLsbD_append]
  interval_cases k <;> simp

theorem encDraw_mask (top : BitVec 4) (x y : RegNum) (n : BitVec 4) :
    encXYN top x y n &&& 0xF000#16 = encXYN top 0 0 0#4 := by
  apply BitVec.eq_of_getLsbD_eq
  intro k hk
  simp only [encXYN, BitVec.getLsbD_and, BitVec.getLsbD_append]
  interval_cases k <;> simp

end Sys2Proof
end

