-- ==== Sys2Proof/Laws/Memory.lean ====
section
/-! SUPPORT. The laws of memory: every write keeps the canonical form, a read after a write, and equal reads make equal
memories. -/

namespace Sys2Proof.Machine

variable {font : Font}

/-- Every cell of `m` lies above `a`. -/
abbrev Memory.above (a : Nat) (m : Memory) : Prop := ∀ c ∈ m, a < c.1

theorem Memory.wf_nil : Memory.wf font [] := by simp [Memory.wf]

theorem Memory.wf_cons {k : Nat} {b : Byte} {m : Memory} :
    Memory.wf font ((k, b) :: m) ↔ Memory.above k m ∧ k ≤ 0xFFF ∧ b ≠ Memory.unlisted font k ∧ Memory.wf font m := by
  simp only [Memory.wf, Memory.above, List.pairwise_cons, List.mem_cons, forall_eq_or_imp]
  tauto

theorem Memory.read_of_above {m : Memory} {a : Nat} (h : Memory.above a m) : Memory.read font m a = Memory.unlisted font a := by
  induction m with
  | nil => rfl
  | cons c m ih =>
    obtain ⟨k, b⟩ := c
    have hk : a < k := h (k, b) (by simp)
    have : k ≠ a := by omega
    simp only [Memory.read, this, if_false]
    exact ih fun c hc => h c (by simp [hc])

theorem Memory.read_cell_other {a c : Nat} {b : Byte} {m : Memory} (h : c ≠ a) :
    Memory.read font (Memory.cell font a b m) c = Memory.read font m c := by
  unfold Memory.cell
  split
  · rfl
  · simp [Memory.read, Ne.symm h]

theorem Memory.read_cell_same {a : Nat} {b : Byte} {m : Memory} (h : Memory.above a m) :
    Memory.read font (Memory.cell font a b m) a = b := by
  unfold Memory.cell
  split
  next e => rw [Memory.read_of_above h, e]
  · simp [Memory.read]

/-- A write leaves every other address as it was, in any memory. -/
theorem Memory.read_write_other (m : Memory) {a c : Nat} (b : Byte) (h : c ≠ a) :
    Memory.read font (Memory.write font m a b) c = Memory.read font m c := by
  induction m with
  | nil => exact Memory.read_cell_other h
  | cons d m ih =>
    obtain ⟨k, e⟩ := d
    simp only [Memory.write]
    split
    · simp only [Memory.read, ih]
    split
    next hk => rw [Memory.read_cell_other h]; simp [Memory.read, hk, Ne.symm h]
    · exact Memory.read_cell_other h

/-- A write is read back. -/
theorem Memory.read_write_same {m : Memory} (hm : Memory.wf font m) (a : Nat) (b : Byte) :
    Memory.read font (Memory.write font m a b) a = b := by
  induction m with
  | nil => exact Memory.read_cell_same (by simp [Memory.above])
  | cons d m ih =>
    obtain ⟨k, e⟩ := d
    obtain ⟨hab, -, -, hw⟩ := Memory.wf_cons.mp hm
    simp only [Memory.write]
    split
    next hk => simp only [Memory.read, show k ≠ a by omega, if_false]; exact ih hw
    split
    next hk => exact Memory.read_cell_same (hk ▸ hab)
    next h1 h2 =>
      refine Memory.read_cell_same ?_
      intro c hc
      rcases List.mem_cons.mp hc with rfl | hc
      · show a < k; omega
      · have := hab c hc; omega

theorem Memory.above_cell {l a : Nat} {b : Byte} {m : Memory} (h : Memory.above l m) (hla : l < a) :
    Memory.above l (Memory.cell font a b m) := by
  unfold Memory.cell
  split
  · exact h
  · intro c hc
    rcases List.mem_cons.mp hc with rfl | hc
    · exact hla
    · exact h c hc

theorem Memory.above_write {l a : Nat} {b : Byte} {m : Memory} (h : Memory.above l m) (hla : l < a) :
    Memory.above l (Memory.write font m a b) := by
  induction m with
  | nil => exact Memory.above_cell (by simp [Memory.above]) hla
  | cons d m ih =>
    obtain ⟨k, e⟩ := d
    have hm : Memory.above l m := fun c hc => h c (by simp [hc])
    simp only [Memory.write]
    split
    · intro c hc
      rcases List.mem_cons.mp hc with rfl | hc
      · exact h _ (by simp)
      · exact ih hm c hc
    split
    · exact Memory.above_cell hm hla
    · exact Memory.above_cell h hla

theorem Memory.wf_cell {a : Nat} {b : Byte} {m : Memory} (hm : Memory.wf font m) (h : Memory.above a m) (ha : a ≤ 0xFFF) :
    Memory.wf font (Memory.cell font a b m) := by
  unfold Memory.cell
  split
  · exact hm
  next e => exact Memory.wf_cons.mpr ⟨h, ha, e, hm⟩

/-- Every write inside memory keeps the canonical form. -/
theorem Memory.wf_write {m : Memory} (hm : Memory.wf font m) {a : Nat} (b : Byte) (ha : a ≤ 0xFFF) :
    Memory.wf font (Memory.write font m a b) := by
  induction m with
  | nil => exact Memory.wf_cell Memory.wf_nil (by simp [Memory.above]) ha
  | cons d m ih =>
    obtain ⟨k, e⟩ := d
    obtain ⟨hab, hk, he, hw⟩ := Memory.wf_cons.mp hm
    simp only [Memory.write]
    split
    next hlt => exact Memory.wf_cons.mpr ⟨Memory.above_write hab hlt, hk, he, ih hw⟩
    split
    next heq => exact Memory.wf_cell hw (heq ▸ hab) ha
    next h1 h2 =>
      refine Memory.wf_cell hm ?_ ha
      intro c hc
      rcases List.mem_cons.mp hc with rfl | hc
      · show a < k; omega
      · have := hab c hc; omega

theorem Memory.wf_writeList {m : Memory} (hm : Memory.wf font m) (bs : List Byte) {a : Nat} (h : a + bs.length ≤ 0x1000) :
    Memory.wf font (Memory.writeList font m a bs) := by
  induction bs generalizing m a with
  | nil => exact hm
  | cons b bs ih =>
    simp only [List.length_cons] at h
    exact ih (Memory.wf_write hm b (by omega)) (by omega)

/-- A block write leaves every address outside the block as it was, in any memory. -/
theorem Memory.read_writeList_outside (m : Memory) (bs : List Byte) {a c : Nat} (h : c < a ∨ a + bs.length ≤ c) :
    Memory.read font (Memory.writeList font m a bs) c = Memory.read font m c := by
  induction bs generalizing m a with
  | nil => rfl
  | cons b bs ih =>
    simp only [List.length_cons] at h
    rw [Memory.writeList, ih _ (by omega), Memory.read_write_other _ _ (by omega)]

/-- A block write is read back. -/
theorem Memory.read_writeList_inside {m : Memory} (hm : Memory.wf font m) (bs : List Byte) {a : Nat}
    (ha : a + bs.length ≤ 0x1000) (k : Nat) (hk : k < bs.length) :
    Memory.read font (Memory.writeList font m a bs) (a + k) = bs[k] := by
  induction bs generalizing m a k with
  | nil => simp at hk
  | cons b bs ih =>
    simp only [List.length_cons] at ha hk
    have hw := Memory.wf_write hm (a := a) b (by omega)
    cases k with
    | zero =>
      rw [Memory.writeList, Memory.read_writeList_outside _ _ (by omega)]
      exact Memory.read_write_same hm a b
    | succ k =>
      have := ih hw (a := a + 1) (by omega) k (by omega)
      simpa [Memory.writeList, Nat.add_assoc, Nat.add_comm 1] using this

theorem Memory.readList_eq (m : Memory) (a n : Nat) :
    Memory.readList font m a n = (List.range n).map fun k => Memory.read font m (a + k) := by
  induction n generalizing a with
  | zero => rfl
  | succ n ih =>
    simp only [Memory.readList, ih, List.range_succ_eq_map, List.map_cons, List.map_map]
    congr 1
    apply List.map_congr_left
    intro k _
    simp [Nat.add_assoc, Nat.add_comm 1]

@[simp] theorem Memory.readList_length (m : Memory) (a n : Nat) : (Memory.readList font m a n).length = n := by
  simp [Memory.readList_eq]

end Sys2Proof.Machine
end

