-- ==== Sys2Proof/Laws/State.lean ====
section
/-! SUPPORT. One lemma per field per named update of State, so that no later proof unfolds a record update. -/

namespace Sys2Proof.Machine

/-! writeV -/

@[simp] theorem writeV_v (s : State) (r : RegNum) (b : Byte) : (writeV s r b).v = s.v.set r.val b r.isLt := rfl
@[simp] theorem writeV_i (s : State) (r : RegNum) (b : Byte) : (writeV s r b).i = s.i := rfl
@[simp] theorem writeV_pc (s : State) (r : RegNum) (b : Byte) : (writeV s r b).pc = s.pc := rfl
@[simp] theorem writeV_stack (s : State) (r : RegNum) (b : Byte) : (writeV s r b).stack = s.stack := rfl
@[simp] theorem writeV_sp (s : State) (r : RegNum) (b : Byte) : (writeV s r b).sp = s.sp := rfl
@[simp] theorem writeV_dt (s : State) (r : RegNum) (b : Byte) : (writeV s r b).dt = s.dt := rfl
@[simp] theorem writeV_st (s : State) (r : RegNum) (b : Byte) : (writeV s r b).st = s.st := rfl
@[simp] theorem writeV_mem (s : State) (r : RegNum) (b : Byte) : (writeV s r b).mem = s.mem := rfl
@[simp] theorem writeV_fb (s : State) (r : RegNum) (b : Byte) : (writeV s r b).fb = s.fb := rfl
@[simp] theorem writeV_keys (s : State) (r : RegNum) (b : Byte) : (writeV s r b).keys = s.keys := rfl
@[simp] theorem writeV_needsRedraw (s : State) (r : RegNum) (b : Byte) : (writeV s r b).needsRedraw = s.needsRedraw := rfl
@[simp] theorem writeV_soundTrigger (s : State) (r : RegNum) (b : Byte) : (writeV s r b).soundTrigger = s.soundTrigger := rfl
@[simp] theorem writeV_unknownOpcode (s : State) (r : RegNum) (b : Byte) : (writeV s r b).unknownOpcode = s.unknownOpcode := rfl
@[simp] theorem writeV_draws (s : State) (r : RegNum) (b : Byte) : (writeV s r b).draws = s.draws := rfl
@[simp] theorem writeV_config (s : State) (r : RegNum) (b : Byte) : (writeV s r b).config = s.config := rfl

/-! storeBytes -/

@[simp] theorem storeBytes_v (s : State) (a : Nat) (bs : List Byte) : (storeBytes s a bs).v = s.v := rfl
@[simp] theorem storeBytes_i (s : State) (a : Nat) (bs : List Byte) : (storeBytes s a bs).i = s.i := rfl
@[simp] theorem storeBytes_pc (s : State) (a : Nat) (bs : List Byte) : (storeBytes s a bs).pc = s.pc := rfl
@[simp] theorem storeBytes_stack (s : State) (a : Nat) (bs : List Byte) : (storeBytes s a bs).stack = s.stack := rfl
@[simp] theorem storeBytes_sp (s : State) (a : Nat) (bs : List Byte) : (storeBytes s a bs).sp = s.sp := rfl
@[simp] theorem storeBytes_dt (s : State) (a : Nat) (bs : List Byte) : (storeBytes s a bs).dt = s.dt := rfl
@[simp] theorem storeBytes_st (s : State) (a : Nat) (bs : List Byte) : (storeBytes s a bs).st = s.st := rfl
@[simp] theorem storeBytes_mem (s : State) (a : Nat) (bs : List Byte) : (storeBytes s a bs).mem = Memory.writeList s.config.font s.mem a bs := rfl
@[simp] theorem storeBytes_fb (s : State) (a : Nat) (bs : List Byte) : (storeBytes s a bs).fb = s.fb := rfl
@[simp] theorem storeBytes_keys (s : State) (a : Nat) (bs : List Byte) : (storeBytes s a bs).keys = s.keys := rfl
@[simp] theorem storeBytes_needsRedraw (s : State) (a : Nat) (bs : List Byte) : (storeBytes s a bs).needsRedraw = s.needsRedraw := rfl
@[simp] theorem storeBytes_soundTrigger (s : State) (a : Nat) (bs : List Byte) : (storeBytes s a bs).soundTrigger = s.soundTrigger := rfl
@[simp] theorem storeBytes_unknownOpcode (s : State) (a : Nat) (bs : List Byte) : (storeBytes s a bs).unknownOpcode = s.unknownOpcode := rfl
@[simp] theorem storeBytes_draws (s : State) (a : Nat) (bs : List Byte) : (storeBytes s a bs).draws = s.draws := rfl
@[simp] theorem storeBytes_config (s : State) (a : Nat) (bs : List Byte) : (storeBytes s a bs).config = s.config := rfl

/-! advance -/

@[simp] theorem advance_v (s : State) : (advance s).v = s.v := rfl
@[simp] theorem advance_i (s : State) : (advance s).i = s.i := rfl
@[simp] theorem advance_pc (s : State) : (advance s).pc = s.pc + 2#16 := rfl
@[simp] theorem advance_stack (s : State) : (advance s).stack = s.stack := rfl
@[simp] theorem advance_sp (s : State) : (advance s).sp = s.sp := rfl
@[simp] theorem advance_dt (s : State) : (advance s).dt = s.dt := rfl
@[simp] theorem advance_st (s : State) : (advance s).st = s.st := rfl
@[simp] theorem advance_mem (s : State) : (advance s).mem = s.mem := rfl
@[simp] theorem advance_fb (s : State) : (advance s).fb = s.fb := rfl
@[simp] theorem advance_keys (s : State) : (advance s).keys = s.keys := rfl
@[simp] theorem advance_needsRedraw (s : State) : (advance s).needsRedraw = s.needsRedraw := rfl
@[simp] theorem advance_soundTrigger (s : State) : (advance s).soundTrigger = s.soundTrigger := rfl
@[simp] theorem advance_unknownOpcode (s : State) : (advance s).unknownOpcode = s.unknownOpcode := rfl
@[simp] theorem advance_draws (s : State) : (advance s).draws = s.draws := rfl
@[simp] theorem advance_config (s : State) : (advance s).config = s.config := rfl

/-! jumpTo -/

@[simp] theorem jumpTo_v (s : State) (target : Word) : (jumpTo s target).v = s.v := rfl
@[simp] theorem jumpTo_i (s : State) (target : Word) : (jumpTo s target).i = s.i := rfl
@[simp] theorem jumpTo_pc (s : State) (target : Word) : (jumpTo s target).pc = target := rfl
@[simp] theorem jumpTo_stack (s : State) (target : Word) : (jumpTo s target).stack = s.stack := rfl
@[simp] theorem jumpTo_sp (s : State) (target : Word) : (jumpTo s target).sp = s.sp := rfl
@[simp] theorem jumpTo_dt (s : State) (target : Word) : (jumpTo s target).dt = s.dt := rfl
@[simp] theorem jumpTo_st (s : State) (target : Word) : (jumpTo s target).st = s.st := rfl
@[simp] theorem jumpTo_mem (s : State) (target : Word) : (jumpTo s target).mem = s.mem := rfl
@[simp] theorem jumpTo_fb (s : State) (target : Word) : (jumpTo s target).fb = s.fb := rfl
@[simp] theorem jumpTo_keys (s : State) (target : Word) : (jumpTo s target).keys = s.keys := rfl
@[simp] theorem jumpTo_needsRedraw (s : State) (target : Word) : (jumpTo s target).needsRedraw = s.needsRedraw := rfl
@[simp] theorem jumpTo_soundTrigger (s : State) (target : Word) : (jumpTo s target).soundTrigger = s.soundTrigger := rfl
@[simp] theorem jumpTo_unknownOpcode (s : State) (target : Word) : (jumpTo s target).unknownOpcode = s.unknownOpcode := rfl
@[simp] theorem jumpTo_draws (s : State) (target : Word) : (jumpTo s target).draws = s.draws := rfl
@[simp] theorem jumpTo_config (s : State) (target : Word) : (jumpTo s target).config = s.config := rfl

/-! skipIf -/

@[simp] theorem skipIf_v (s : State) (c : Bool) : (skipIf s c).v = s.v := rfl
@[simp] theorem skipIf_i (s : State) (c : Bool) : (skipIf s c).i = s.i := rfl
@[simp] theorem skipIf_pc (s : State) (c : Bool) : (skipIf s c).pc = (if c then s.pc + 4#16 else s.pc + 2#16) := rfl
@[simp] theorem skipIf_stack (s : State) (c : Bool) : (skipIf s c).stack = s.stack := rfl
@[simp] theorem skipIf_sp (s : State) (c : Bool) : (skipIf s c).sp = s.sp := rfl
@[simp] theorem skipIf_dt (s : State) (c : Bool) : (skipIf s c).dt = s.dt := rfl
@[simp] theorem skipIf_st (s : State) (c : Bool) : (skipIf s c).st = s.st := rfl
@[simp] theorem skipIf_mem (s : State) (c : Bool) : (skipIf s c).mem = s.mem := rfl
@[simp] theorem skipIf_fb (s : State) (c : Bool) : (skipIf s c).fb = s.fb := rfl
@[simp] theorem skipIf_keys (s : State) (c : Bool) : (skipIf s c).keys = s.keys := rfl
@[simp] theorem skipIf_needsRedraw (s : State) (c : Bool) : (skipIf s c).needsRedraw = s.needsRedraw := rfl
@[simp] theorem skipIf_soundTrigger (s : State) (c : Bool) : (skipIf s c).soundTrigger = s.soundTrigger := rfl
@[simp] theorem skipIf_unknownOpcode (s : State) (c : Bool) : (skipIf s c).unknownOpcode = s.unknownOpcode := rfl
@[simp] theorem skipIf_draws (s : State) (c : Bool) : (skipIf s c).draws = s.draws := rfl
@[simp] theorem skipIf_config (s : State) (c : Bool) : (skipIf s c).config = s.config := rfl

/-! drawn -/

@[simp] theorem drawn_v (s : State) : (drawn s).v = s.v := rfl
@[simp] theorem drawn_i (s : State) : (drawn s).i = s.i := rfl
@[simp] theorem drawn_pc (s : State) : (drawn s).pc = s.pc := rfl
@[simp] theorem drawn_stack (s : State) : (drawn s).stack = s.stack := rfl
@[simp] theorem drawn_sp (s : State) : (drawn s).sp = s.sp := rfl
@[simp] theorem drawn_dt (s : State) : (drawn s).dt = s.dt := rfl
@[simp] theorem drawn_st (s : State) : (drawn s).st = s.st := rfl
@[simp] theorem drawn_mem (s : State) : (drawn s).mem = s.mem := rfl
@[simp] theorem drawn_fb (s : State) : (drawn s).fb = s.fb := rfl
@[simp] theorem drawn_keys (s : State) : (drawn s).keys = s.keys := rfl
@[simp] theorem drawn_needsRedraw (s : State) : (drawn s).needsRedraw = s.needsRedraw := rfl
@[simp] theorem drawn_soundTrigger (s : State) : (drawn s).soundTrigger = s.soundTrigger := rfl
@[simp] theorem drawn_unknownOpcode (s : State) : (drawn s).unknownOpcode = s.unknownOpcode := rfl
@[simp] theorem drawn_draws (s : State) : (drawn s).draws = s.draws + 1 := rfl
@[simp] theorem drawn_config (s : State) : (drawn s).config = s.config := rfl

/-! report -/

@[simp] theorem report_v (s : State) (op : Word) : (report s op).v = s.v := rfl
@[simp] theorem report_i (s : State) (op : Word) : (report s op).i = s.i := rfl
@[simp] theorem report_pc (s : State) (op : Word) : (report s op).pc = s.pc := rfl
@[simp] theorem report_stack (s : State) (op : Word) : (report s op).stack = s.stack := rfl
@[simp] theorem report_sp (s : State) (op : Word) : (report s op).sp = s.sp := rfl
@[simp] theorem report_dt (s : State) (op : Word) : (report s op).dt = s.dt := rfl
@[simp] theorem report_st (s : State) (op : Word) : (report s op).st = s.st := rfl
@[simp] theorem report_mem (s : State) (op : Word) : (report s op).mem = s.mem := rfl
@[simp] theorem report_fb (s : State) (op : Word) : (report s op).fb = s.fb := rfl
@[simp] theorem report_keys (s : State) (op : Word) : (report s op).keys = s.keys := rfl
@[simp] theorem report_needsRedraw (s : State) (op : Word) : (report s op).needsRedraw = s.needsRedraw := rfl
@[simp] theorem report_soundTrigger (s : State) (op : Word) : (report s op).soundTrigger = s.soundTrigger := rfl
@[simp] theorem report_unknownOpcode (s : State) (op : Word) : (report s op).unknownOpcode = some op := rfl
@[simp] theorem report_draws (s : State) (op : Word) : (report s op).draws = s.draws := rfl
@[simp] theorem report_config (s : State) (op : Word) : (report s op).config = s.config := rfl

/-! clearOutputs -/

@[simp] theorem clearOutputs_v (s : State) : (clearOutputs s).v = s.v := rfl
@[simp] theorem clearOutputs_i (s : State) : (clearOutputs s).i = s.i := rfl
@[simp] theorem clearOutputs_pc (s : State) : (clearOutputs s).pc = s.pc := rfl
@[simp] theorem clearOutputs_stack (s : State) : (clearOutputs s).stack = s.stack := rfl
@[simp] theorem clearOutputs_sp (s : State) : (clearOutputs s).sp = s.sp := rfl
@[simp] theorem clearOutputs_dt (s : State) : (clearOutputs s).dt = s.dt := rfl
@[simp] theorem clearOutputs_st (s : State) : (clearOutputs s).st = s.st := rfl
@[simp] theorem clearOutputs_mem (s : State) : (clearOutputs s).mem = s.mem := rfl
@[simp] theorem clearOutputs_fb (s : State) : (clearOutputs s).fb = s.fb := rfl
@[simp] theorem clearOutputs_keys (s : State) : (clearOutputs s).keys = s.keys := rfl
@[simp] theorem clearOutputs_needsRedraw (s : State) : (clearOutputs s).needsRedraw = s.needsRedraw := rfl
@[simp] theorem clearOutputs_soundTrigger (s : State) : (clearOutputs s).soundTrigger = false := rfl
@[simp] theorem clearOutputs_unknownOpcode (s : State) : (clearOutputs s).unknownOpcode = none := rfl
@[simp] theorem clearOutputs_draws (s : State) : (clearOutputs s).draws = s.draws := rfl
@[simp] theorem clearOutputs_config (s : State) : (clearOutputs s).config = s.config := rfl

/-! tick -/

@[simp] theorem tick_v (s : State) : (tick s).v = s.v := rfl
@[simp] theorem tick_i (s : State) : (tick s).i = s.i := rfl
@[simp] theorem tick_pc (s : State) : (tick s).pc = s.pc := rfl
@[simp] theorem tick_stack (s : State) : (tick s).stack = s.stack := rfl
@[simp] theorem tick_sp (s : State) : (tick s).sp = s.sp := rfl
@[simp] theorem tick_dt (s : State) : (tick s).dt = countDown s.dt := rfl
@[simp] theorem tick_st (s : State) : (tick s).st = countDown s.st := rfl
@[simp] theorem tick_mem (s : State) : (tick s).mem = s.mem := rfl
@[simp] theorem tick_fb (s : State) : (tick s).fb = s.fb := rfl
@[simp] theorem tick_keys (s : State) : (tick s).keys = s.keys := rfl
@[simp] theorem tick_needsRedraw (s : State) : (tick s).needsRedraw = s.needsRedraw := rfl
@[simp] theorem tick_soundTrigger (s : State) : (tick s).soundTrigger = decide (s.st = 1#8) := rfl
@[simp] theorem tick_unknownOpcode (s : State) : (tick s).unknownOpcode = s.unknownOpcode := rfl
@[simp] theorem tick_draws (s : State) : (tick s).draws = s.draws := rfl
@[simp] theorem tick_config (s : State) : (tick s).config = s.config := rfl

/-! loadBlock -/

@[simp] theorem loadBlock_i (s : State) (x : RegNum) : (loadBlock s x).i = s.i := rfl
@[simp] theorem loadBlock_pc (s : State) (x : RegNum) : (loadBlock s x).pc = s.pc := rfl
@[simp] theorem loadBlock_stack (s : State) (x : RegNum) : (loadBlock s x).stack = s.stack := rfl
@[simp] theorem loadBlock_sp (s : State) (x : RegNum) : (loadBlock s x).sp = s.sp := rfl
@[simp] theorem loadBlock_dt (s : State) (x : RegNum) : (loadBlock s x).dt = s.dt := rfl
@[simp] theorem loadBlock_st (s : State) (x : RegNum) : (loadBlock s x).st = s.st := rfl
@[simp] theorem loadBlock_mem (s : State) (x : RegNum) : (loadBlock s x).mem = s.mem := rfl
@[simp] theorem loadBlock_fb (s : State) (x : RegNum) : (loadBlock s x).fb = s.fb := rfl
@[simp] theorem loadBlock_keys (s : State) (x : RegNum) : (loadBlock s x).keys = s.keys := rfl
@[simp] theorem loadBlock_needsRedraw (s : State) (x : RegNum) : (loadBlock s x).needsRedraw = s.needsRedraw := rfl
@[simp] theorem loadBlock_soundTrigger (s : State) (x : RegNum) : (loadBlock s x).soundTrigger = s.soundTrigger := rfl
@[simp] theorem loadBlock_unknownOpcode (s : State) (x : RegNum) : (loadBlock s x).unknownOpcode = s.unknownOpcode := rfl
@[simp] theorem loadBlock_draws (s : State) (x : RegNum) : (loadBlock s x).draws = s.draws := rfl
@[simp] theorem loadBlock_config (s : State) (x : RegNum) : (loadBlock s x).config = s.config := rfl

/-! withCanvas -/

@[simp] theorem withCanvas_v (s : State) (c : Canvas) : (withCanvas s c).v = (writeV s regF (flagByte c.collision)).v := rfl
@[simp] theorem withCanvas_i (s : State) (c : Canvas) : (withCanvas s c).i = s.i := rfl
@[simp] theorem withCanvas_pc (s : State) (c : Canvas) : (withCanvas s c).pc = s.pc := rfl
@[simp] theorem withCanvas_stack (s : State) (c : Canvas) : (withCanvas s c).stack = s.stack := rfl
@[simp] theorem withCanvas_sp (s : State) (c : Canvas) : (withCanvas s c).sp = s.sp := rfl
@[simp] theorem withCanvas_dt (s : State) (c : Canvas) : (withCanvas s c).dt = s.dt := rfl
@[simp] theorem withCanvas_st (s : State) (c : Canvas) : (withCanvas s c).st = s.st := rfl
@[simp] theorem withCanvas_mem (s : State) (c : Canvas) : (withCanvas s c).mem = s.mem := rfl
@[simp] theorem withCanvas_fb (s : State) (c : Canvas) : (withCanvas s c).fb = c.fb := rfl
@[simp] theorem withCanvas_keys (s : State) (c : Canvas) : (withCanvas s c).keys = s.keys := rfl
@[simp] theorem withCanvas_needsRedraw (s : State) (c : Canvas) : (withCanvas s c).needsRedraw = true := rfl
@[simp] theorem withCanvas_soundTrigger (s : State) (c : Canvas) : (withCanvas s c).soundTrigger = s.soundTrigger := rfl
@[simp] theorem withCanvas_unknownOpcode (s : State) (c : Canvas) : (withCanvas s c).unknownOpcode = s.unknownOpcode := rfl
@[simp] theorem withCanvas_draws (s : State) (c : Canvas) : (withCanvas s c).draws = s.draws := rfl
@[simp] theorem withCanvas_config (s : State) (c : Canvas) : (withCanvas s c).config = s.config := rfl

/-! State.resetWith -/

@[simp] theorem State.resetWith_v (config : Config) : (State.resetWith config).v = Vector.replicate 16 0#8 := rfl
@[simp] theorem State.resetWith_i (config : Config) : (State.resetWith config).i = 0x000#16 := rfl
@[simp] theorem State.resetWith_pc (config : Config) : (State.resetWith config).pc = 0x200#16 := rfl
@[simp] theorem State.resetWith_stack (config : Config) : (State.resetWith config).stack = Vector.replicate 16 0#16 := rfl
@[simp] theorem State.resetWith_sp (config : Config) : (State.resetWith config).sp = 0 := rfl
@[simp] theorem State.resetWith_dt (config : Config) : (State.resetWith config).dt = 0#8 := rfl
@[simp] theorem State.resetWith_st (config : Config) : (State.resetWith config).st = 0#8 := rfl
@[simp] theorem State.resetWith_mem (config : Config) : (State.resetWith config).mem = [] := rfl
@[simp] theorem State.resetWith_fb (config : Config) : (State.resetWith config).fb = 0#2048 := rfl
@[simp] theorem State.resetWith_keys (config : Config) : (State.resetWith config).keys = Vector.replicate 16 false := rfl
@[simp] theorem State.resetWith_needsRedraw (config : Config) : (State.resetWith config).needsRedraw = false := rfl
@[simp] theorem State.resetWith_soundTrigger (config : Config) : (State.resetWith config).soundTrigger = false := rfl
@[simp] theorem State.resetWith_unknownOpcode (config : Config) : (State.resetWith config).unknownOpcode = none := rfl
@[simp] theorem State.resetWith_draws (config : Config) : (State.resetWith config).draws = 0 := rfl
@[simp] theorem State.resetWith_config (config : Config) : (State.resetWith config).config = config := rfl

/-! hostReset -/

@[simp] theorem hostReset_v (s : State) : (hostReset s).v = (State.resetWith s.config).v := rfl
@[simp] theorem hostReset_i (s : State) : (hostReset s).i = (State.resetWith s.config).i := rfl
@[simp] theorem hostReset_pc (s : State) : (hostReset s).pc = (State.resetWith s.config).pc := rfl
@[simp] theorem hostReset_stack (s : State) : (hostReset s).stack = (State.resetWith s.config).stack := rfl
@[simp] theorem hostReset_sp (s : State) : (hostReset s).sp = (State.resetWith s.config).sp := rfl
@[simp] theorem hostReset_dt (s : State) : (hostReset s).dt = (State.resetWith s.config).dt := rfl
@[simp] theorem hostReset_st (s : State) : (hostReset s).st = (State.resetWith s.config).st := rfl
@[simp] theorem hostReset_mem (s : State) : (hostReset s).mem = (State.resetWith s.config).mem := rfl
@[simp] theorem hostReset_fb (s : State) : (hostReset s).fb = (State.resetWith s.config).fb := rfl
@[simp] theorem hostReset_keys (s : State) : (hostReset s).keys = (State.resetWith s.config).keys := rfl
@[simp] theorem hostReset_needsRedraw (s : State) : (hostReset s).needsRedraw = (State.resetWith s.config).needsRedraw := rfl
@[simp] theorem hostReset_soundTrigger (s : State) : (hostReset s).soundTrigger = (State.resetWith s.config).soundTrigger := rfl
@[simp] theorem hostReset_unknownOpcode (s : State) : (hostReset s).unknownOpcode = (State.resetWith s.config).unknownOpcode := rfl
@[simp] theorem hostReset_draws (s : State) : (hostReset s).draws = s.draws := rfl
@[simp] theorem hostReset_config (s : State) : (hostReset s).config = s.config := rfl

/-! hostAckRedraw -/

@[simp] theorem hostAckRedraw_v (s : State) : (hostAckRedraw s).v = s.v := rfl
@[simp] theorem hostAckRedraw_i (s : State) : (hostAckRedraw s).i = s.i := rfl
@[simp] theorem hostAckRedraw_pc (s : State) : (hostAckRedraw s).pc = s.pc := rfl
@[simp] theorem hostAckRedraw_stack (s : State) : (hostAckRedraw s).stack = s.stack := rfl
@[simp] theorem hostAckRedraw_sp (s : State) : (hostAckRedraw s).sp = s.sp := rfl
@[simp] theorem hostAckRedraw_dt (s : State) : (hostAckRedraw s).dt = s.dt := rfl
@[simp] theorem hostAckRedraw_st (s : State) : (hostAckRedraw s).st = s.st := rfl
@[simp] theorem hostAckRedraw_mem (s : State) : (hostAckRedraw s).mem = s.mem := rfl
@[simp] theorem hostAckRedraw_fb (s : State) : (hostAckRedraw s).fb = s.fb := rfl
@[simp] theorem hostAckRedraw_keys (s : State) : (hostAckRedraw s).keys = s.keys := rfl
@[simp] theorem hostAckRedraw_needsRedraw (s : State) : (hostAckRedraw s).needsRedraw = false := rfl
@[simp] theorem hostAckRedraw_soundTrigger (s : State) : (hostAckRedraw s).soundTrigger = s.soundTrigger := rfl
@[simp] theorem hostAckRedraw_unknownOpcode (s : State) : (hostAckRedraw s).unknownOpcode = s.unknownOpcode := rfl
@[simp] theorem hostAckRedraw_draws (s : State) : (hostAckRedraw s).draws = s.draws := rfl
@[simp] theorem hostAckRedraw_config (s : State) : (hostAckRedraw s).config = s.config := rfl

/-! Reading registers after an update. -/

@[simp] theorem readV_writeV_same (s : State) (r : RegNum) (b : Byte) : readV (writeV s r b) r = b := by
  simp [readV, writeV, Vector.get_eq_getElem]

theorem readV_writeV_ne (s : State) (r q : RegNum) (b : Byte) (h : q ≠ r) : readV (writeV s r b) q = readV s q := by
  have : r.val ≠ q.val := fun e => h (Fin.ext e.symm)
  simp [readV, writeV, Vector.get_eq_getElem, Vector.getElem_set_ne, this]

theorem readV_writeV (s : State) (r q : RegNum) (b : Byte) :
    readV (writeV s r b) q = if q = r then b else readV s q := by
  split
  next h => subst h; exact readV_writeV_same s q b
  next h => exact readV_writeV_ne s r q b h

/-- `readV` sees the registers alone. -/
theorem readV_congr {s t : State} (h : t.v = s.v) (r : RegNum) : readV t r = readV s r := by
  simp [readV, h]

/-- `byteAt` sees the memory and the configuration alone. -/
theorem byteAt_congr {s t : State} (h : t.mem = s.mem) (hc : t.config = s.config) (a : Nat) : byteAt t a = byteAt s a := by
  simp [byteAt, h, hc]

theorem readV_loadBlock (s : State) (x r : RegNum) :
    readV (loadBlock s x) r = if r ≤ x then byteAt s (s.i.toNat + r.val) else readV s r := by
  simp [readV, loadBlock, Vector.get_eq_getElem]

@[simp] theorem readV_storeBytes (s : State) (a : Nat) (bs : List Byte) (q : RegNum) : readV (storeBytes s a bs) q = readV s q := rfl
@[simp] theorem readV_advance (s : State) (q : RegNum) : readV (advance s) q = readV s q := rfl
@[simp] theorem readV_jumpTo (s : State) (target : Word) (q : RegNum) : readV (jumpTo s target) q = readV s q := rfl
@[simp] theorem readV_skipIf (s : State) (c : Bool) (q : RegNum) : readV (skipIf s c) q = readV s q := rfl
@[simp] theorem readV_drawn (s : State) (q : RegNum) : readV (drawn s) q = readV s q := rfl
@[simp] theorem readV_report (s : State) (op : Word) (q : RegNum) : readV (report s op) q = readV s q := rfl
@[simp] theorem readV_clearOutputs (s : State) (q : RegNum) : readV (clearOutputs s) q = readV s q := rfl
@[simp] theorem readV_tick (s : State) (q : RegNum) : readV (tick s) q = readV s q := rfl
@[simp] theorem readV_hostAckRedraw (s : State) (q : RegNum) : readV (hostAckRedraw s) q = readV s q := rfl

@[simp] theorem byteAt_writeV (s : State) (r : RegNum) (b : Byte) (k : Nat) : byteAt (writeV s r b) k = byteAt s k := rfl
@[simp] theorem byteAt_advance (s : State) (k : Nat) : byteAt (advance s) k = byteAt s k := rfl
@[simp] theorem byteAt_jumpTo (s : State) (target : Word) (k : Nat) : byteAt (jumpTo s target) k = byteAt s k := rfl
@[simp] theorem byteAt_skipIf (s : State) (c : Bool) (k : Nat) : byteAt (skipIf s c) k = byteAt s k := rfl
@[simp] theorem byteAt_drawn (s : State) (k : Nat) : byteAt (drawn s) k = byteAt s k := rfl
@[simp] theorem byteAt_report (s : State) (op : Word) (k : Nat) : byteAt (report s op) k = byteAt s k := rfl
@[simp] theorem byteAt_clearOutputs (s : State) (k : Nat) : byteAt (clearOutputs s) k = byteAt s k := rfl
@[simp] theorem byteAt_tick (s : State) (k : Nat) : byteAt (tick s) k = byteAt s k := rfl
@[simp] theorem byteAt_loadBlock (s : State) (x : RegNum) (k : Nat) : byteAt (loadBlock s x) k = byteAt s k := rfl
@[simp] theorem byteAt_withCanvas (s : State) (c : Canvas) (k : Nat) : byteAt (withCanvas s c) k = byteAt s k := rfl
@[simp] theorem byteAt_hostAckRedraw (s : State) (k : Nat) : byteAt (hostAckRedraw s) k = byteAt s k := rfl

end Sys2Proof.Machine
end

