-- ==== Sys2Proof/Laws/Ops.lean ====
section
/-! SUPPORT. One lemma per shared operation that says once everything it can do; later proofs cite these and do not unfold. -/

namespace Sys2Proof.Machine

/-! The `I`-relative access (R50, R150). -/

theorem indexedAccess_of_inRange {s t : State} {count : Nat} (h : count = 0 ∨ inRange s count) :
    indexedAccess s count t = .next t := by
  unfold indexedAccess
  rw [if_neg]
  simp only [inRange] at h
  omega

theorem indexedAccess_of_not_inRange {s t : State} {count : Nat} (hc : count ≠ 0) (h : ¬ inRange s count) :
    indexedAccess s count t = .fault (.outOfRange (lowestOffending s)) := by
  unfold indexedAccess
  rw [if_pos]
  · rfl
  simp only [inRange] at h
  omega

theorem indexedAccess_eq_next {s t u : State} {count : Nat} :
    indexedAccess s count t = .next u ↔ (count = 0 ∨ inRange s count) ∧ u = t := by
  by_cases h : count = 0 ∨ inRange s count
  · rw [indexedAccess_of_inRange h]
    simp [h, eq_comm]
  · have hc : count ≠ 0 := fun e => h (.inl e)
    rw [indexedAccess_of_not_inRange hc fun e => h (.inr e)]
    simp [h]

/-- The information word is `max(I, 0x1000)` (R150). -/
theorem lowestOffending_toNat (s : State) : (lowestOffending s).toNat = max s.i.toNat 0x1000 := by
  unfold lowestOffending
  split <;> simp <;> omega

/-! The stack (R19, R20): each lemma gives the whole state after it. -/

theorem push_cases (s : State) (a : Word) :
    (∃ (h : s.sp.val < 16) (q : Fin 17), q.val = s.sp.val + 1 ∧
      push s a = some { s with stack := s.stack.set s.sp.val a h, sp := q }) ∨
    (s.sp.val = 16 ∧ push s a = none) := by
  by_cases h : s.sp.val < 16
  · exact .inl ⟨h, _, rfl, dif_pos h⟩
  · exact .inr ⟨by omega, dif_neg h⟩

theorem pop_cases (s : State) :
    (∃ (k : Fin 16) (q : Fin 17), s.sp.val = k.val + 1 ∧ q.val = k.val ∧
      pop s = some (s.stack.get k, { s with sp := q })) ∨
    (s.sp.val = 0 ∧ pop s = none) := by
  by_cases h : 0 < s.sp.val
  · exact .inl ⟨⟨s.sp.val - 1, by omega⟩, ⟨s.sp.val - 1, by omega⟩, by show _ = s.sp.val - 1 + 1; omega, rfl, dif_pos h⟩
  · exact .inr ⟨by omega, dif_neg h⟩

/-! Keys (R185, R186). -/

theorem keyOperand_cases (s : State) (x : RegNum) :
    (∃ h : (readV s x).toNat < 16, keyOperand s x = .ok ⟨(readV s x).toNat, h⟩) ∨
    (15 < (readV s x).toNat ∧ keyOperand s x = .error (.outOfRange (byteWord (readV s x)))) := by
  by_cases h : (readV s x).toNat < 16
  · exact .inl ⟨h, dif_pos h⟩
  · exact .inr ⟨by omega, dif_neg h⟩

theorem lowestKey_eq_none {s : State} : lowestKey s = none ↔ ∀ k : Fin 16, keyDown s k = false := by
  simp [lowestKey, List.find?_eq_none]

theorem lowestKey_eq_some {s : State} {k : Fin 16} :
    lowestKey s = some k ↔ keyDown s k = true ∧ ∀ j : Fin 16, j < k → keyDown s j = false := by
  simp only [lowestKey, List.find?_eq_some_iff_getElem, List.getElem_finRange, List.length_finRange]
  constructor
  · rintro ⟨hk, i, hi, rfl, hj⟩
    refine ⟨hk, fun j hlt => ?_⟩
    have := hj j.val (by simpa [Fin.lt_def] using hlt)
    simpa using this
  · rintro ⟨hk, hj⟩
    refine ⟨hk, k.val, k.isLt, by simp, fun j hlt => ?_⟩
    have := hj ⟨j, by omega⟩ hlt
    simpa using this

/-! Timers (R88). -/

theorem countDown_toNat (t : Byte) : (countDown t).toNat = t.toNat - 1 := by
  unfold countDown
  split
  next h => simp [h]
  next h =>
    have : t.toNat ≠ 0 := fun e => h (BitVec.eq_of_toNat_eq (by simpa using e))
    have := t.isLt
    rw [BitVec.toNat_sub]
    simp
    omega

/-! The frame of a STEP (R95). -/

theorem fetch_cases (s : State) :
    (0xFFE < s.pc.toNat ∧ fetch s = .error (.invalidFetch s.pc)) ∨
    (s.pc.toNat ≤ 0xFFE ∧ fetch s = .ok (wordOfBytes (byteAt s s.pc.toNat) (byteAt s (s.pc.toNat + 1)))) := by
  unfold fetch
  by_cases h : s.pc.toNat + 1 > 0xFFF
  · exact .inl ⟨by omega, if_pos h⟩
  · exact .inr ⟨by omega, if_neg h⟩

theorem thenTick_eq_next {r : Result} {t : State} : thenTick r = .next t ↔ ∃ u, r = .next u ∧ t = tick u := by
  cases r <;> simp [thenTick, eq_comm]

theorem thenTick_eq_fault {r : Result} {f : Fault} : thenTick r = .fault f ↔ r = .fault f := by
  cases r <;> simp [thenTick]

theorem thenTick_eq_refused {r : Result} {q : Refusal} : thenTick r = .refused q ↔ r = .refused q := by
  cases r <;> simp [thenTick]

/-- A STEP that completes: what was fetched, what phase 3 answered, and the tick. -/
theorem step_eq_next {s t : State} : step s = .next t ↔
    ∃ op u, fetch s = .ok op ∧ execWord op (clearOutputs s) = .next u ∧ t = tick u := by
  unfold step
  cases h : fetch s with
  | error f => simp [raise]
  | ok op => simp [thenTick_eq_next]

/-- Phase 3 of an opcode: the decoded form, or the reported no-operation. -/
theorem execWord_cases (op : Word) (s : State) :
    (∃ i, decodeOp op = some i ∧ execWord op s = exec i s) ∨
    (decodeOp op = none ∧ execWord op s = .next (advance (report s op))) := by
  unfold execWord
  cases h : decodeOp op with
  | none => exact .inr ⟨rfl, rfl⟩
  | some i => exact .inl ⟨i, rfl, rfl⟩

/-! Block reads and writes (R155 to R157). -/

theorem byteAt_storeBytes_outside (s : State) (a : Nat) (bs : List Byte) {c : Nat} (h : c < a ∨ a + bs.length ≤ c) :
    byteAt (storeBytes s a bs) c = byteAt s c :=
  Memory.read_writeList_outside s.mem bs h

theorem byteAt_storeBytes_inside {s : State} (hm : Memory.wf s.config.font s.mem) (a : Nat) (bs : List Byte)
    (h : a + bs.length ≤ 0x1000) (k : Nat) (hk : k < bs.length) : byteAt (storeBytes s a bs) (a + k) = bs[k] :=
  Memory.read_writeList_inside hm bs h k hk

@[simp] theorem bcdDigits_length (a : Byte) : (bcdDigits a).length = 3 := rfl

@[simp] theorem regBlock_length (s : State) (x : RegNum) : (regBlock s x).length = x.val + 1 := by
  simp [regBlock]

theorem regBlock_getElem (s : State) (x : RegNum) (k : Nat) (hk : k < (regBlock s x).length) :
    (regBlock s x)[k] = readV s ⟨k, by simp at hk; omega⟩ := by
  simp [regBlock, readV, Vector.get_eq_getElem]

@[simp] theorem loadBytes_length (s : State) (a n : Nat) : (loadBytes s a n).length = n := by
  simp [loadBytes]

theorem loadBytes_eq (s : State) (a n : Nat) : loadBytes s a n = (List.range n).map fun k => byteAt s (a + k) :=
  Memory.readList_eq s.mem a n

/-! Flags as numbers (R12, R26). -/

theorem flagByte_toNat (c : Bool) : (flagByte c).toNat = if c then 1 else 0 := by
  cases c <;> rfl

theorem carryFlag_toNat (a b : Byte) : (carryFlag a b).toNat = if a.toNat + b.toNat > 255 then 1 else 0 := by
  simp [carryFlag, flagByte_toNat]

theorem noBorrowFlag_toNat (a b : Byte) : (noBorrowFlag a b).toNat = if a.toNat ≥ b.toNat then 1 else 0 := by
  simp [noBorrowFlag, flagByte_toNat]

theorem indexFlag_toNat (i : Word) (a : Byte) : (indexFlag i a).toNat = if i.toNat + a.toNat > 0xFFF then 1 else 0 := by
  simp [indexFlag, flagByte_toNat]

theorem indexSum_toNat (i : Word) (a : Byte) : (indexSum i a).toNat = (i.toNat + a.toNat) % 4096 := by
  simp [indexSum]
  omega

theorem addrImm_toNat (nnn : BitVec 12) : (addrImm nnn).toNat = nnn.toNat := by
  simp [addrImm]
  omega

theorem byteWord_toNat (b : Byte) : (byteWord b).toNat = b.toNat := by
  simp [byteWord]
  omega

end Sys2Proof.Machine
end

