-- ==== Sys2Proof/Laws/PerInstr.lean ====
section
/-! SUPPORT. Facts about the encoding of every instruction, made per instruction (LAWS.json). The family EncodingRow: the
opcode of a well-formed instruction matches that instruction's own row of the opcode table. -/

namespace Sys2Proof.Laws.EncodingRow

/-- The opcode of a well-formed instruction, masked, is its row's match; and the opcode is CLS's or RET's only if the instruction
is (R66: rows 1 and 2 are tested before row 3). -/
def Statement (i : Instr) : Prop :=
  i.wellFormed = true → encode i &&& i.tableRow.1 = i.tableRow.2 ∧ (encode i = 0x00E0#16 → i = .cls) ∧
    (encode i = 0x00EE#16 → i = .ret)

/-- A word whose primary opcode is not 0 is neither CLS's nor RET's. -/
theorem not_fixed {op : Word} (h : opTop op ≠ 0#4) : op ≠ 0x00E0#16 ∧ op ≠ 0x00EE#16 := by
  constructor <;> rintro rfl <;> exact h (by decide)

/-- The common shape of every form but CLS, RET and SYS. -/
theorem of_row {i : Instr} (hm : encode i &&& i.tableRow.1 = i.tableRow.2) (h : opTop (encode i) ≠ 0#4) : Statement i :=
  fun _ => ⟨hm, fun e => absurd e (not_fixed h).1, fun e => absurd e (not_fixed h).2⟩

theorem cls : Statement .cls := fun _ => ⟨by decide, fun _ => rfl, fun e => absurd e (by decide)⟩

theorem ret : Statement .ret := fun _ => ⟨by decide, fun e => absurd e (by decide), fun _ => rfl⟩

theorem sys (nnn : BitVec 12) : Statement (.sys nnn) := by
  intro h
  simp only [Instr.wellFormed, Bool.and_eq_true, decide_eq_true_eq] at h
  refine ⟨encNNN_mask _ _, fun e => absurd ?_ h.1, fun e => absurd ?_ h.2⟩
  · rw [← opNNN_encNNN 0x0#4 nnn, show encNNN 0x0#4 nnn = _ from e]
    decide
  · rw [← opNNN_encNNN 0x0#4 nnn, show encNNN 0x0#4 nnn = _ from e]
    decide

theorem jp (nnn : BitVec 12) : Statement (.jp nnn) := of_row (encNNN_mask _ _) (by simp [encode])

theorem call (nnn : BitVec 12) : Statement (.call nnn) := of_row (encNNN_mask _ _) (by simp [encode])

theorem seImm (x : RegNum) (nn : Byte) : Statement (.seImm x nn) := of_row (encXNN_mask _ _ _) (by simp [encode])

theorem sneImm (x : RegNum) (nn : Byte) : Statement (.sneImm x nn) := of_row (encXNN_mask _ _ _) (by simp [encode])

theorem seReg (x y : RegNum) : Statement (.seReg x y) := of_row (encXYN_mask _ _ _ _) (by simp [encode])

theorem ldImm (x : RegNum) (nn : Byte) : Statement (.ldImm x nn) := of_row (encXNN_mask _ _ _) (by simp [encode])

theorem addImm (x : RegNum) (nn : Byte) : Statement (.addImm x nn) := of_row (encXNN_mask _ _ _) (by simp [encode])

theorem ldReg (x y : RegNum) : Statement (.ldReg x y) := of_row (encXYN_mask _ _ _ _) (by simp [encode])

theorem orReg (x y : RegNum) : Statement (.orReg x y) := of_row (encXYN_mask _ _ _ _) (by simp [encode])

theorem andReg (x y : RegNum) : Statement (.andReg x y) := of_row (encXYN_mask _ _ _ _) (by simp [encode])

theorem xorReg (x y : RegNum) : Statement (.xorReg x y) := of_row (encXYN_mask _ _ _ _) (by simp [encode])

theorem addReg (x y : RegNum) : Statement (.addReg x y) := of_row (encXYN_mask _ _ _ _) (by simp [encode])

theorem subReg (x y : RegNum) : Statement (.subReg x y) := of_row (encXYN_mask _ _ _ _) (by simp [encode])

theorem shr (x y : RegNum) : Statement (.shr x y) := of_row (encXYN_mask _ _ _ _) (by simp [encode])

theorem subnReg (x y : RegNum) : Statement (.subnReg x y) := of_row (encXYN_mask _ _ _ _) (by simp [encode])

theorem shl (x y : RegNum) : Statement (.shl x y) := of_row (encXYN_mask _ _ _ _) (by simp [encode])

theorem sneReg (x y : RegNum) : Statement (.sneReg x y) := of_row (encXYN_mask _ _ _ _) (by simp [encode])

theorem ldI (nnn : BitVec 12) : Statement (.ldI nnn) := of_row (encNNN_mask _ _) (by simp [encode])

theorem jpV0 (nnn : BitVec 12) : Statement (.jpV0 nnn) := of_row (encNNN_mask _ _) (by simp [encode])

theorem rnd (x : RegNum) (nn : Byte) : Statement (.rnd x nn) := of_row (encXNN_mask _ _ _) (by simp [encode])

theorem drw (x y : RegNum) (n : BitVec 4) : Statement (.drw x y n) := of_row (encDraw_mask _ _ _ _) (by simp [encode])

theorem skp (x : RegNum) : Statement (.skp x) := of_row (encXKK_mask _ _ _) (by simp [encode])

theorem sknp (x : RegNum) : Statement (.sknp x) := of_row (encXKK_mask _ _ _) (by simp [encode])

theorem ldVxDt (x : RegNum) : Statement (.ldVxDt x) := of_row (encXKK_mask _ _ _) (by simp [encode])

theorem ldVxK (x : RegNum) : Statement (.ldVxK x) := of_row (encXKK_mask _ _ _) (by simp [encode])

theorem ldDtVx (x : RegNum) : Statement (.ldDtVx x) := of_row (encXKK_mask _ _ _) (by simp [encode])

theorem ldStVx (x : RegNum) : Statement (.ldStVx x) := of_row (encXKK_mask _ _ _) (by simp [encode])

theorem addI (x : RegNum) : Statement (.addI x) := of_row (encXKK_mask _ _ _) (by simp [encode])

theorem ldF (x : RegNum) : Statement (.ldF x) := of_row (encXKK_mask _ _ _) (by simp [encode])

theorem ldB (x : RegNum) : Statement (.ldB x) := of_row (encXKK_mask _ _ _) (by simp [encode])

theorem storeRegs (x : RegNum) : Statement (.storeRegs x) := of_row (encXKK_mask _ _ _) (by simp [encode])

theorem loadRegs (x : RegNum) : Statement (.loadRegs x) := of_row (encXKK_mask _ _ _) (by simp [encode])

end Sys2Proof.Laws.EncodingRow
end

