-- ==== Sys2Proof/Laws/Schedule.lean ====
section
/-! SUPPORT. The run of an infinite schedule is that of its finite prefixes, and its states are reachable (R202). -/

namespace Sys2Proof.Machine

@[simp] theorem runSchedule_nil (s : State) : runSchedule [] s = s := rfl

@[simp] theorem runSchedule_cons (t : Transaction) (ts : List Transaction) (s : State) :
    runSchedule (t :: ts) s = runSchedule ts (transact t s).1 := rfl

theorem runSchedule_append (ts us : List Transaction) (s : State) :
    runSchedule (ts ++ us) s = runSchedule us (runSchedule ts s) := by
  induction ts generalizing s with
  | nil => rfl
  | cons t ts ih => exact ih _

@[simp] theorem stateAt_zero (schedule : Nat → Transaction) (s : State) : stateAt schedule s 0 = s := rfl

theorem stateAt_succ (schedule : Nat → Transaction) (s : State) (n : Nat) :
    stateAt schedule s (n + 1) = (transact (schedule n) (stateAt schedule s n)).1 := rfl

/-- What the first `n` transactions of an infinite schedule do, as a finite schedule. -/
theorem stateAt_eq_runSchedule (schedule : Nat → Transaction) (s : State) (n : Nat) :
    stateAt schedule s n = runSchedule ((List.range n).map schedule) s := by
  induction n with
  | zero => rfl
  | succ n ih => rw [stateAt_succ, ih, List.range_succ, List.map_append, runSchedule_append]; rfl

theorem Reachable.runSchedule {s : State} (h : Reachable s) (ts : List Transaction) : Reachable (runSchedule ts s) := by
  induction ts generalizing s with
  | nil => exact h
  | cons t ts ih => exact ih (h.transact t)

/-- A state is reachable exactly if some infinite schedule after RESET passes through it. -/
theorem reachable_iff_stateAt {s : State} :
    Reachable s ↔ ∃ config schedule n, s = stateAt schedule (State.resetWith config) n := by
  constructor
  · intro h
    induction h with
    | reset config => exact ⟨config, fun _ => .reset, 0, rfl⟩
    | transact t s _ ih =>
      obtain ⟨config, schedule, n, rfl⟩ := ih
      refine ⟨config, fun k => if k < n then schedule k else t, n + 1, ?_⟩
      rw [stateAt_succ, if_neg (Nat.lt_irrefl n), stateAt_eq_runSchedule, stateAt_eq_runSchedule]
      congr 3
      exact List.map_congr_left fun k hk => (if_pos (List.mem_range.mp hk)).symm
  · rintro ⟨config, schedule, n, rfl⟩
    rw [stateAt_eq_runSchedule]
    exact (Reachable.reset config).runSchedule _

end Sys2Proof.Machine
end

