-- ==== Sys2Proof/Laws/Step.lean ====
section
/-! SUPPORT. The fetch sees the bytes in memory: a placed word is the one the next STEP runs (R53, R61, R81). -/

namespace Sys2Proof.Machine

@[simp] theorem placeWord_pc (s : State) (op : Word) : (placeWord s op).pc = s.pc := by
  unfold placeWord
  split <;> rfl

/-- Where a fetch is possible, a placed word is the word fetched. -/
theorem fetch_placeWord {s : State} (hm : Memory.wf s.config.font s.mem) (hpc : s.pc.toNat ≤ 0xFFE) (op : Word) :
    fetch (placeWord s op) = .ok op := by
  have h : placeWord s op = storeBytes s s.pc.toNat (bytesOfWord op) := if_neg (by omega)
  have hb := byteAt_storeBytes_inside hm s.pc.toNat (bytesOfWord op) (by simp [bytesOfWord]; omega)
  have h0 := hb 0 (by simp [bytesOfWord])
  have h1 := hb 1 (by simp [bytesOfWord])
  rcases fetch_cases (placeWord s op) with ⟨hlt, -⟩ | ⟨-, hf⟩
  · rw [placeWord_pc] at hlt
    omega
  · rw [hf, placeWord_pc, h]
    simp only [Nat.add_zero] at h0
    rw [h0, h1]
    exact congrArg _ (wordOfBytes_bytesOfWord op)

/-- What the host relies on: after `withFetchWord` the next STEP runs exactly that word. -/
theorem step_withFetchWord {s : State} (hm : Memory.wf s.config.font s.mem) (hpc : s.pc.toNat ≤ 0xFFE) (nbits w : Nat) :
    step (s.withFetchWord nbits w) =
      thenTick (execWord (BitVec.ofNat 16 (w % 2 ^ nbits)) (clearOutputs (s.withFetchWord nbits w))) := by
  unfold step State.withFetchWord
  rw [fetch_placeWord hm hpc]

end Sys2Proof.Machine
end

