-- ==== Sys2Proof/Tests/Slice0.lean ====
section
/-! SUPPORT. The author's tests. Expected values are the vectors of 95_test_vectors.md (named in each comment) or the opcode
map of 30_encoding.md R66 written out by hand; `test_witness_<Name>` meets the hypotheses of `Obligations.<Name>`. -/

open Sys2Proof Sys2Proof.Machine

namespace Sys2Proof.Tests

/-! ## Helpers -/

/-- The state after RESET with some registers set. -/
def start (l : List (RegNum × Byte)) : State := l.foldl (fun t p => writeV t p.1 p.2) State.reset

/-- The state after RESET with some bytes in memory. -/
def holding (a : Nat) (bs : List Byte) (s : State) : State := storeBytes s a bs

/-- With the key `k` down. -/
def pressing (k : Fin 16) (s : State) : State := { s with keys := s.keys.set k.val true k.isLt }

/-- One STEP on the opcode completes in a state that passes. -/
def ends (s : State) (op : Word) (good : State → Bool) : Bool :=
  match step (placeWord s op) with
  | .next t => good t
  | .fault _ => false
  | .refused _ => false

/-- One STEP on the opcode faults with `f`. -/
def faults (s : State) (op : Word) (f : Fault) : Bool :=
  match step (placeWord s op) with
  | .next _ => false
  | .fault g => g == f
  | .refused _ => false

theorem exists_next_of_ends {s : State} {op : Word} {good : State → Bool} (h : ends s op good = true) :
    ∃ t, step (placeWord s op) = .next t ∧ good t = true := by
  unfold ends at h
  split at h
  next t e => exact ⟨t, e, h⟩
  next => cases h
  next => cases h

theorem step_fault_of_faults {s : State} {op : Word} {f : Fault} (h : faults s op f = true) :
    step (placeWord s op) = .fault f := by
  unfold faults at h
  split at h
  next => cases h
  next g e => rw [e, eq_of_beq h]
  next => cases h

/-! ## Well-formed terms (R66, R110) -/

theorem test_wellFormed_refuses_sys_0E0 : (Instr.sys 0x0E0#12).wellFormed = false := by decide

theorem test_wellFormed_refuses_sys_0EE : (Instr.sys 0x0EE#12).wellFormed = false := by decide

theorem test_wellFormed_accepts_sys_0EF : (Instr.sys 0x0EF#12).wellFormed = true := by decide

/-! ## Decoding: words written bit by bit from R62, R63, R66 -/

theorem test_decode_control_flow :
    decodeOp 0b0000_0000_1110_0000#16 = some .cls ∧ decodeOp 0b0000_0000_1110_1110#16 = some .ret ∧
      decodeOp 0b0000_0001_0010_0011#16 = some (.sys 0x123#12) ∧ decodeOp 0b0001_1010_1011_1100#16 = some (.jp 0xABC#12) ∧
      decodeOp 0b0010_0010_0001_0000#16 = some (.call 0x210#12) ∧ decodeOp 0b1011_1111_0000_0001#16 = some (.jpV0 0xF01#12) := by
  decide

theorem test_decode_skips :
    decodeOp 0b0011_0001_1111_0000#16 = some (.seImm 1 0xF0#8) ∧ decodeOp 0b0100_1110_0001_0001#16 = some (.sneImm 14 0x11#8) ∧
      decodeOp 0b0101_0011_0100_0000#16 = some (.seReg 3 4) ∧ decodeOp 0b1001_1100_0101_0000#16 = some (.sneReg 12 5) := by
  decide

theorem test_decode_immediate :
    decodeOp 0b0110_1010_0010_1011#16 = some (.ldImm 10 0x2B#8) ∧ decodeOp 0b0111_0101_1111_1111#16 = some (.addImm 5 0xFF#8) := by
  decide

theorem test_decode_alu :
    decodeOp 0b1000_1010_1011_0000#16 = some (.ldReg 10 11) ∧ decodeOp 0b1000_1010_1011_0001#16 = some (.orReg 10 11) ∧
      decodeOp 0b1000_1010_1011_0010#16 = some (.andReg 10 11) ∧ decodeOp 0b1000_1010_1011_0011#16 = some (.xorReg 10 11) ∧
      decodeOp 0b1000_1010_1011_0100#16 = some (.addReg 10 11) ∧ decodeOp 0b1000_1010_1011_0101#16 = some (.subReg 10 11) ∧
      decodeOp 0b1000_1010_1011_0110#16 = some (.shr 10 11) ∧ decodeOp 0b1000_1010_1011_0111#16 = some (.subnReg 10 11) ∧
      decodeOp 0b1000_1010_1011_1110#16 = some (.shl 10 11) := by
  decide

theorem test_decode_index_and_draw :
    decodeOp 0b1010_0011_0000_0001#16 = some (.ldI 0x301#12) ∧ decodeOp 0b1100_0011_0000_1111#16 = some (.rnd 3 0x0F#8) ∧
      decodeOp 0b1101_0001_0010_1111#16 = some (.drw 1 2 0xF#4) ∧ decodeOp 0b1111_1000_0001_1110#16 = some (.addI 8) ∧
      decodeOp 0b1111_1001_0010_1001#16 = some (.ldF 9) ∧ decodeOp 0b1111_0100_0011_0011#16 = some (.ldB 4) ∧
      decodeOp 0b1111_0010_0101_0101#16 = some (.storeRegs 2) ∧ decodeOp 0b1111_1111_0110_0101#16 = some (.loadRegs 15) := by
  decide

theorem test_decode_timer_and_keys :
    decodeOp 0b1110_0001_1001_1110#16 = some (.skp 1) ∧ decodeOp 0b1110_0001_1010_0001#16 = some (.sknp 1) ∧
      decodeOp 0b1111_0001_0000_0111#16 = some (.ldVxDt 1) ∧ decodeOp 0b1111_0001_0000_1010#16 = some (.ldVxK 1) ∧
      decodeOp 0b1111_0001_0001_0101#16 = some (.ldDtVx 1) ∧ decodeOp 0b1111_0001_0001_1000#16 = some (.ldStVx 1) := by
  decide

/-- T-D8, T-D10, T-D12, T-D14, T-D17, T-D19, T-D21 to T-D23 -/
theorem test_decode_unknown :
    decodeOp 0x5121#16 = none ∧ decodeOp 0x8AB8#16 = none ∧ decodeOp 0x8ABF#16 = none ∧ decodeOp 0x912F#16 = none ∧
      decodeOp 0xE19F#16 = none ∧ decodeOp 0xE100#16 = none ∧ decodeOp 0xF100#16 = none ∧ decodeOp 0xF175#16 = none ∧
      decodeOp 0xF1FF#16 = none := by
  decide

theorem test_decode_bytes :
    decode [0x8A#8] = .error .truncated ∧ decode [0x51#8, 0x21#8] = .error (.unknownOpcode 0x5121#16) ∧
      decode [0x12#8, 0x04#8, 0xFF#8] = .ok (.jp 0x204#12, [0xFF#8]) := by
  decide

theorem test_decodeTableWord :
    decodeTableWord 16 0x8AB7 = some (.subnReg 10 11) ∧ decodeTableWord 16 0x00EE = some .ret ∧
      decodeTableWord 16 0xF1FF = none := by
  decide

theorem test_withFetchWord_runs :
    ends (State.reset.withFetchWord 16 0x6A2B) 0x6A2B#16 (fun t => readV t 10 == 0x2B#8) = true ∧
      placeWord State.reset 0x6A2B#16 = State.reset.withFetchWord 16 0x6A2B := by
  exact ⟨by decide, rfl⟩

/-! ## Control flow -/

/-- S1, second vector -/
theorem test_cls : ends { State.reset with fb := BitVec.twoPow 2048 259 ||| BitVec.twoPow 2048 2047 } 0x00E0#16
    (fun t => t.fb == 0#2048 && t.needsRedraw && t.pc == 0x202#16) = true := by decide +kernel

/-- T-C8 -/
theorem test_ret : ends { State.reset with sp := 1, stack := State.reset.stack.set 0 0x206#16, pc := 0x212#16 } 0x00EE#16
    (fun t => t.sp == 0 && t.pc == 0x206#16 && t.stack.get 0 == 0x206#16) = true := by decide

/-- T-C9 -/
theorem test_ret_underflow : faults { State.reset with st := 1#8 } 0x00EE#16 (.stackUnderflow 0x200#16) = true := by decide

/-- T-U5 -/
theorem test_sys : ends State.reset 0x0123#16 (fun t => t.unknownOpcode == some 0x0123#16 && t.pc == 0x202#16) = true := by
  decide

/-- T-C2: the halt idiom ticks -/
theorem test_jp : ends { State.reset with pc := 0x20C#16, dt := 2#8 } 0x120C#16
    (fun t => t.pc == 0x20C#16 && t.dt == 1#8) = true := by decide

/-- T-C5: the 16th level -/
theorem test_call : ends { State.reset with sp := 15 } 0x2300#16
    (fun t => t.stack.get 15 == 0x202#16 && t.sp == 16 && t.pc == 0x300#16) = true := by decide

/-- T-C6 -/
theorem test_call_overflow : faults { State.reset with sp := 16 } 0x2300#16 (.stackOverflow 0x200#16) = true := by decide

/-- T-C10, T-C11 -/
theorem test_seImm : ends (start []) 0x3100#16 (fun t => t.pc == 0x204#16) = true ∧
    ends (start [(1, 1#8)]) 0x3100#16 (fun t => t.pc == 0x202#16) = true := by decide

/-- T-C12, T-C13 -/
theorem test_sneImm : ends (start [(2, 0x10#8)]) 0x4211#16 (fun t => t.pc == 0x204#16) = true ∧
    ends (start [(2, 0x10#8)]) 0x4210#16 (fun t => t.pc == 0x202#16) = true := by decide

/-- T-C14, T-C15 -/
theorem test_seReg : ends (start [(3, 7#8), (4, 7#8)]) 0x5340#16 (fun t => t.pc == 0x204#16) = true ∧
    ends (start [(3, 7#8), (4, 8#8)]) 0x5340#16 (fun t => t.pc == 0x202#16) = true := by decide

/-- T-C17, T-C18 -/
theorem test_sneReg : ends (start [(3, 7#8), (4, 8#8)]) 0x9340#16 (fun t => t.pc == 0x204#16) = true ∧
    ends (start [(3, 7#8), (4, 7#8)]) 0x9340#16 (fun t => t.pc == 0x202#16) = true := by decide

/-- T-C21: not reduced modulo 4096 -/
theorem test_jpV0 : ends (start [(0, 0xFF#8)]) 0xBFFF#16 (fun t => t.pc == 0x10FE#16) = true := by decide

/-! ## Register-immediate and ALU -/

/-- T-R1 -/
theorem test_ldImm : ends State.reset 0x6A2B#16 (fun t => readV t 10 == 0x2B#8 && t.pc == 0x202#16) = true := by decide

/-- T-R5 -/
theorem test_addImm : ends (start [(1, 5#8), (15, 1#8)]) 0x71FF#16 (fun t => readV t 1 == 4#8 && readV t 15 == 1#8) = true := by
  decide

/-- T-A1 -/
theorem test_ldReg : ends (start [(2, 0x37#8)]) 0x8120#16 (fun t => readV t 1 == 0x37#8) = true := by decide

/-- T-A2 -/
theorem test_orReg : ends (start [(1, 0xF0#8), (2, 0x0F#8), (15, 1#8)]) 0x8121#16
    (fun t => readV t 1 == 0xFF#8 && readV t 15 == 1#8) = true := by decide

/-- T-A3 -/
theorem test_andReg : ends (start [(1, 0xF3#8), (2, 0x3C#8)]) 0x8122#16 (fun t => readV t 1 == 0x30#8) = true := by decide

/-- T-A4 -/
theorem test_xorReg : ends (start [(1, 0xFF#8), (2, 0x0F#8)]) 0x8123#16 (fun t => readV t 1 == 0xF0#8) = true := by decide

/-- T-A6 -/
theorem test_addReg : ends (start [(1, 255#8), (2, 1#8)]) 0x8124#16 (fun t => readV t 1 == 0#8 && readV t 15 == 1#8) = true := by
  decide

/-- T-A10, T-A11 -/
theorem test_addReg_flag_register : ends (start [(15, 200#8), (1, 100#8)]) 0x8F14#16 (fun t => readV t 15 == 44#8) = true ∧
    ends (start [(1, 250#8), (15, 10#8)]) 0x81F4#16 (fun t => readV t 1 == 4#8 && readV t 15 == 1#8) = true := by decide

/-- S4a -/
theorem test_subReg : ends (start [(1, 5#8), (2, 10#8), (15, 1#8)]) 0x8125#16
    (fun t => readV t 1 == 251#8 && readV t 15 == 0#8) = true := by decide

/-- T-A12 -/
theorem test_subReg_equal : ends (start [(1, 7#8), (2, 7#8)]) 0x8125#16 (fun t => readV t 1 == 0#8 && readV t 15 == 1#8) = true := by
  decide

/-- T-A17 -/
theorem test_shr : ends (start [(1, 5#8), (2, 0xAA#8)]) 0x8126#16
    (fun t => readV t 1 == 2#8 && readV t 15 == 1#8 && readV t 2 == 0xAA#8) = true := by decide

/-- T-A21 -/
theorem test_shr_flag_register : ends (start [(15, 3#8)]) 0x8F06#16 (fun t => readV t 15 == 1#8) = true := by decide

/-- T-A22, T-A23 -/
theorem test_subnReg : ends (start [(1, 5#8), (2, 10#8)]) 0x8127#16 (fun t => readV t 1 == 5#8 && readV t 15 == 1#8) = true ∧
    ends (start [(1, 10#8), (2, 5#8)]) 0x8127#16 (fun t => readV t 1 == 251#8 && readV t 15 == 0#8) = true := by decide

/-- T-A26 -/
theorem test_shl : ends (start [(1, 0x81#8)]) 0x812E#16 (fun t => readV t 1 == 2#8 && readV t 15 == 1#8) = true := by decide

/-- T-A30 -/
theorem test_shl_flag_register : ends (start [(15, 0xC1#8)]) 0x8F0E#16 (fun t => readV t 15 == 0x82#8) = true := by decide

/-! ## Index, random, font, BCD, block -/

/-- T-M2 -/
theorem test_ldI : ends State.reset 0xAFFF#16 (fun t => t.i == 0xFFF#16) = true := by decide

/-- T-M4 -/
theorem test_addI_wraps : ends { start [(1, 3#8)] with i := 0xFFE#16 } 0xF11E#16 (fun t => t.i == 1#16 && readV t 15 == 1#8) = true := by
  decide

/-- T-M7 -/
theorem test_addI_flag_register : ends { start [(15, 1#8)] with i := 0xFFF#16 } 0xFF1E#16
    (fun t => t.i == 0#16 && readV t 15 == 1#8) = true := by decide

/-- T-M8, for the byte drawn -/
theorem test_rnd : (match execRndWith 0xB7#8 3 0x0F#8 State.reset with
    | .next t => readV t 3 == 0x07#8
    | .fault _ => false
    | .refused _ => false) = true := by decide

/-- T-M9: whatever is drawn -/
theorem test_rnd_masked_off : (match exec (.rnd 3 0x00#8) State.reset with
    | .next t => readV t 3 = 0#8 ∧ t.pc = 0x202#16
    | .fault _ => False
    | .refused _ => False) := by
  simp [exec, execRnd, execRndWith, advance, readV, writeV, drawn, State.reset, State.resetWith, Vector.get]

/-- T-M12, T-M13 -/
theorem test_ldF : ends (start [(0, 0x0F#8)]) 0xF029#16 (fun t => t.i == 0x04B#16) = true ∧
    ends (start [(0, 0x1A#8)]) 0xF029#16 (fun t => t.i == 0x032#16) = true := by decide

/-- T-M18 -/
theorem test_ldB : ends { start [(0, 99#8)] with i := 0xFFD#16 } 0xF033#16
    (fun t => byteAt t 0xFFD == 0#8 && byteAt t 0xFFE == 9#8 && byteAt t 0xFFF == 9#8) = true := by decide

/-- T-M19 -/
theorem test_ldB_fault : faults { start [(0, 99#8)] with i := 0xFFE#16 } 0xF033#16 (.outOfRange 0x1000#16) = true := by decide

/-- T-M21 -/
theorem test_storeRegs : ends { start [(0, 0xAB#8), (1, 0xCD#8)] with i := 0x300#16 } 0xF055#16
    (fun t => byteAt t 0x300 == 0xAB#8 && byteAt t 0x301 == 0#8 && t.i == 0x300#16) = true := by decide

/-- T-M24 -/
theorem test_storeRegs_fault : faults { start [(0, 9#8)] with i := 0xFF1#16 } 0xFF55#16 (.outOfRange 0x1000#16) = true := by decide

/-- T-M25 -/
theorem test_loadRegs : ends (holding 0x300 [7#8, 8#8, 9#8] { start [(3, 0x44#8)] with i := 0x300#16 }) 0xF265#16
    (fun t => readV t 0 == 7#8 && readV t 1 == 8#8 && readV t 2 == 9#8 && readV t 3 == 0x44#8) = true := by decide

/-- T-M28: reads the glyph of 0 of the default font -/
theorem test_loadRegs_font : ends State.reset 0xF465#16
    (fun t => readV t 0 == 0xF0#8 && readV t 1 == 0x90#8 && readV t 4 == 0xF0#8) = true := by decide

/-- The font is a parameter (R6, R46): the same STEP of a CORE with another font. -/
theorem test_loadRegs_other_font : ends (State.resetWith ⟨Vector.replicate 80 0x5A#8⟩) 0xF465#16
    (fun t => readV t 0 == 0x5A#8 && readV t 4 == 0x5A#8 && readV t 5 == 0#8) = true := by decide

/-! ## Sprite draw -/

/-- T-S4 -/
theorem test_drw : ends (holding 0x300 [0xFF#8, 0x81#8]
      { start [(0, 10#8), (1, 5#8)] with i := 0x300#16, fb := BitVec.twoPow 2048 401 }) 0xD012#16
    (fun t => readV t 15 == 1#8 && pixel t 10 5 && pixel t 17 5 && !pixel t 18 5 && pixel t 10 6 && !pixel t 11 6 &&
      !pixel t 17 6) = true := by decide +kernel

/-- T-S5: right clip -/
theorem test_drw_clips : ends (holding 0x300 [0xFF#8] { start [(0, 60#8)] with i := 0x300#16 }) 0xD011#16
    (fun t => t.fb == 0xF#2048 <<< 60 && readV t 15 == 0#8 && t.needsRedraw) = true := by decide +kernel

/-! ## Timers and keys -/

/-- T-TI7 -/
theorem test_ldVxDt : ends { State.reset with dt := 2#8 } 0xF107#16 (fun t => readV t 1 == 2#8 && t.dt == 1#8) = true := by decide

/-- T-TI1 -/
theorem test_ldDtVx : ends (start [(0, 3#8)]) 0xF015#16 (fun t => t.dt == 2#8) = true := by decide

/-- T-TI4 -/
theorem test_ldStVx : ends (start [(0, 1#8)]) 0xF018#16 (fun t => t.st == 0#8 && t.soundTrigger) = true := by decide

/-- T-TI5 -/
theorem test_ldStVx_zero : ends { State.reset with st := 5#8 } 0xF018#16 (fun t => t.st == 0#8 && !t.soundTrigger) = true := by decide

/-- T-K1 -/
theorem test_skp : ends (pressing 10 (start [(1, 10#8)])) 0xE19E#16 (fun t => t.pc == 0x204#16) = true := by decide

/-- T-K5 -/
theorem test_skp_fault : faults (start [(1, 16#8)]) 0xE19E#16 (.outOfRange 0x0010#16) = true := by decide

/-- T-K4 -/
theorem test_sknp : ends (pressing 10 (start [(1, 10#8)])) 0xE1A1#16 (fun t => t.pc == 0x202#16) = true := by decide

/-- T-K6 -/
theorem test_sknp_fault : faults (start [(1, 0xFA#8)]) 0xE1A1#16 (.outOfRange 0x00FA#16) = true := by decide

/-- T-K7 -/
theorem test_ldVxK_blocked : ends { start [(1, 0x33#8)] with dt := 1#8, st := 1#8 } 0xF10A#16
    (fun t => t.pc == 0x200#16 && readV t 1 == 0x33#8 && t.dt == 0#8 && t.st == 0#8 && t.soundTrigger) = true := by decide

/-- T-K9 -/
theorem test_ldVxK : ends (pressing 9 (pressing 3 State.reset)) 0xF10A#16 (fun t => readV t 1 == 3#8 && t.pc == 0x202#16) = true := by
  decide

/-! ## The step cycle and the host -/

/-- T-F1 -/
theorem test_invalidFetch : faults { State.reset with pc := 0xFFF#16 } 0x6007#16 (.invalidFetch 0x0FFF#16) = true := by decide

/-- T-F3 -/
theorem test_last_fetch : ends { State.reset with pc := 0xFFE#16 } 0x6007#16 (fun t => readV t 0 == 7#8 && t.pc == 0x1000#16) = true := by
  decide

/-- T-U2 -/
theorem test_unknown : ends { State.reset with st := 1#8 } 0x8128#16
    (fun t => t.pc == 0x202#16 && t.st == 0#8 && t.unknownOpcode == some 0x8128#16 && t.soundTrigger) = true := by decide

/-- T-H4 -/
theorem test_load : (transact (.load [0xAA#8, 0xBB#8]) (holding 0x200 [0x11#8, 0x22#8, 0x33#8, 0x44#8] State.reset)).1.mem =
    [(0x200, 0xAA#8), (0x201, 0xBB#8), (0x202, 0x33#8), (0x203, 0x44#8)] := by decide

/-- T-H5 -/
theorem test_key_out_of_range : (transact (.key 16 true) State.reset).2 = .failed (.outOfRange 16) := by decide

/-- T-H7: from a state with a program and a pressed key -/
theorem test_reset : (transact .reset (pressing 3 (holding 0x200 [0x11#8] State.reset))).1.mem = [] := by decide

/-! ## Witnesses: the hypotheses of each statement can be met -/

theorem wf_reset : Memory.wf State.reset.config.font State.reset.mem := by decide

theorem test_witness_DecodeOfEncode :
    (Instr.sys 0xFFF#12).wellFormed = true ∧ (Instr.drw 15 15 0xF#4).wellFormed = true := by decide

theorem test_witness_EncodeOfDecode : decodeOp 0xD000#16 = some (.drw 0 0 0#4) := by decide

theorem test_witness_DecoderMatchesOpcodeMap :
    decodeOp 0x00E0#16 = some .cls ∧ (0xFFFF#16, 0x00E0#16) ∈ opcodeRows ∧ (0xF000#16, 0x0000#16) ∈ opcodeRows ∧
      0x00E0#16 &&& 0xFFFF#16 = 0x00E0#16 ∧ 0x00E0#16 &&& 0xF000#16 = 0x0000#16 := by decide

theorem test_witness_StepRunsDecodedInstruction :
    let s := placeWord { State.reset with pc := 0xFFE#16 } 0x8AB7#16
    s.pc.toNat ≤ 0xFFE ∧ decode [byteAt s s.pc.toNat, byteAt s (s.pc.toNat + 1)] = .ok (.subnReg 10 11, []) := by decide

theorem test_witness_UnknownOpcodeIsReportedNop :
    let s := placeWord { State.reset with pc := 0xFFE#16 } 0x8AB8#16
    s.pc.toNat ≤ 0xFFE ∧ decodeOp (opcodeAt s) = none := by decide

theorem test_witness_TimersAcrossStep_dt :
    ∃ s t, step s = .next t ∧ decodeOp (opcodeAt s) = some (.ldDtVx 0) :=
  ⟨placeWord State.reset 0xF015#16,
    (exists_next_of_ends (good := fun _ => true) (by decide)).imp fun _ h => ⟨h.1, by decide⟩⟩

theorem test_witness_TimersAcrossStep_st :
    ∃ s t, step s = .next t ∧ decodeOp (opcodeAt s) = some (.ldStVx 0) :=
  ⟨placeWord State.reset 0xF018#16,
    (exists_next_of_ends (good := fun _ => true) (by decide)).imp fun _ h => ⟨h.1, by decide⟩⟩

/-- A step on another instruction; it also meets DiagnosticExactly's hypothesis with nothing reported. -/
theorem test_witness_TimersAcrossStep_other :
    ∃ s t, step s = .next t ∧ decodeOp (opcodeAt s) = some (.ldReg 0 0) :=
  ⟨placeWord State.reset 0x8000#16,
    (exists_next_of_ends (good := fun _ => true) (by decide)).imp fun _ h => ⟨h.1, by decide⟩⟩

theorem test_witness_DiagnosticExactly_unknown : ∃ s t, step s = .next t ∧ decodeOp (opcodeAt s) = none :=
  ⟨placeWord State.reset 0x5121#16,
    (exists_next_of_ends (good := fun _ => true) (by decide)).imp fun _ h => ⟨h.1, by decide⟩⟩

theorem test_witness_DiagnosticExactly_sys : ∃ s t, step s = .next t ∧ decodeOp (opcodeAt s) = some (.sys 0#12) :=
  ⟨placeWord State.reset 0x0000#16,
    (exists_next_of_ends (good := fun _ => true) (by decide)).imp fun _ h => ⟨h.1, by decide⟩⟩

theorem test_witness_StepFaultsExactly_fetch :
    0xFFE < ({ State.reset with pc := 0xFFF#16 } : State).pc.toNat ∧
      step (placeWord { State.reset with pc := 0xFFF#16 } 0x6007#16) = .fault (.invalidFetch 0xFFF#16) :=
  ⟨by decide, step_fault_of_faults (by decide)⟩

/-- Of a form that can fault: it decodes, its condition holds in `s`, and the STEP faults so. -/
def faultsAs (s : State) (op : Word) (i : Instr) (f : Fault) : Bool :=
  decide ((placeWord s op).pc.toNat ≤ 0xFFE) && decide (decodeOp (opcodeAt (placeWord s op)) = some i) &&
    decide (faultOf i (placeWord s op) = some f) && faults s op f

theorem test_witness_StepFaultsExactly_stack :
    faultsAs State.reset 0x00EE#16 .ret (.stackUnderflow 0x200#16) = true ∧
      faultsAs { State.reset with sp := 16 } 0x2300#16 (.call 0x300#12) (.stackOverflow 0x200#16) = true := by decide

theorem test_witness_StepFaultsExactly_block :
    faultsAs { State.reset with i := 0xFFE#16 } 0xF033#16 (.ldB 0) (.outOfRange 0x1000#16) = true ∧
      faultsAs { State.reset with i := 0xFF1#16 } 0xFF55#16 (.storeRegs 15) (.outOfRange 0x1000#16) = true ∧
      faultsAs { State.reset with i := 0x1001#16 } 0xF065#16 (.loadRegs 0) (.outOfRange 0x1001#16) = true := by decide

/-- T-S13 -/
theorem test_witness_StepFaultsExactly_drw :
    faultsAs { State.reset with i := 0xFFE#16 } 0xD013#16 (.drw 0 1 3#4) (.outOfRange 0x1000#16) = true := by decide +kernel

theorem test_witness_StepFaultsExactly_keys :
    faultsAs (start [(1, 16#8)]) 0xE19E#16 (.skp 1) (.outOfRange 0x0010#16) = true ∧
      faultsAs (start [(1, 0xFF#8)]) 0xE1A1#16 (.sknp 1) (.outOfRange 0x00FF#16) = true := by decide

theorem test_witness_RandomByteOnlyInRnd : ∀ x nn, decodeOp (opcodeAt State.reset) ≠ some (.rnd x nn) := by
  have h : decodeOp (opcodeAt State.reset) = some (.sys 0#12) := by decide
  simp [h]

theorem test_witness_OnlyListedInstructionsWrite :
    (∃ t, exec (.ldI 0x300#12) State.reset = .next t) ∧ (∃ t, exec (.storeRegs 15) State.reset = .next t) :=
  ⟨⟨_, rfl⟩, ⟨_, rfl⟩⟩

theorem test_witness_OnlyFlagWritersTouchVF :
    ∃ t, exec (.addReg 1 2) (start [(1, 250#8), (2, 10#8)]) = .next t ∧
      readV t 15 ≠ readV (start [(1, 250#8), (2, 10#8)]) 15 :=
  ⟨_, rfl, by decide⟩

theorem test_witness_ClsClearsScreen : (63 : Nat) ≤ 63 ∧ (31 : Nat) ≤ 31 := by decide

theorem test_witness_RetPopsOrFaults :
    ({ State.reset with sp := 1 } : State).sp.val = (0 : Fin 16).val + 1 ∧
      ({ State.reset with sp := 16 } : State).sp.val = (15 : Fin 16).val + 1 ∧ State.reset.sp.val = 0 := by decide

theorem test_witness_CallPushesOrFaults :
    State.reset.sp.val = (0 : Fin 16).val ∧ ({ State.reset with sp := 15 } : State).sp.val = (15 : Fin 16).val ∧
      ({ State.reset with sp := 16 } : State).sp.val = 16 := by decide

theorem test_witness_CallThenRetRoundTrip : ({ State.reset with sp := 15 } : State).sp.val < 16 := by decide

/-- The one hypothesis of AddRegSumAndCarry, SubtractAndNoBorrow and ShiftByOne. -/
theorem test_witness_flag_not_destination : (14 : RegNum) ≠ 15 ∧ (0 : RegNum) ≠ 15 := by decide

theorem test_witness_MemWriteChangesOneByte :
    Memory.wf State.reset.config.font State.reset.mem ∧ (0xFFF : Nat) ≤ 0xFFF ∧ (0x1000 : Nat) > 0xFFF ∧
      memWrite State.reset 0x1000 1#8 = .error (.outOfRange 0x1000#16) :=
  ⟨wf_reset, by decide, by decide, rfl⟩

theorem test_witness_CanonicalMemoriesAreEqual :
    Memory.wf defaultConfig.font [(0x000, 1#8), (0xFFF, 2#8)] ∧
      ∀ a, Memory.read defaultConfig.font [(0x000, 1#8), (0xFFF, 2#8)] a =
        Memory.read defaultConfig.font
          (Memory.write defaultConfig.font (Memory.write defaultConfig.font [] 0xFFF 2#8) 0x000 1#8) a :=
  ⟨by decide, fun _ => rfl⟩

theorem test_witness_LdBStoresDigits :
    Memory.wf State.reset.config.font State.reset.mem ∧ ({ State.reset with i := 0xFFD#16 } : State).i.toNat + 2 ≤ 0xFFF := ⟨wf_reset, by decide⟩

/-- The hypotheses of StoreRegsStoresBlock, LoadRegsLoadsBlock and StoreThenLoadKeepsRegisters, at both ends of `x`. -/
theorem test_witness_register_block :
    Memory.wf State.reset.config.font State.reset.mem ∧ ({ State.reset with i := 0xFF0#16 } : State).i.toNat + (15 : RegNum).val ≤ 0xFFF ∧
      ({ State.reset with i := 0xFFF#16 } : State).i.toNat + (0 : RegNum).val ≤ 0xFFF := ⟨wf_reset, by decide, by decide⟩

theorem test_witness_AddressFaults :
    ({ State.reset with i := 0xFFE#16 } : State).i.toNat + 2 > 0xFFF ∧
      ({ State.reset with i := 0xFF1#16 } : State).i.toNat + (15 : RegNum).val > 0xFFF ∧
      (1#4).toNat ≥ 1 ∧ ({ State.reset with i := 0x1000#16 } : State).i.toNat + (1#4).toNat - 1 > 0xFFF ∧
      (15#4).toNat ≥ 1 ∧ ({ State.reset with i := 0xFF2#16 } : State).i.toNat + (15#4).toNat - 1 > 0xFFF := by decide

theorem test_witness_DrwXorsSprite_ranges :
    (0#4).toNat = 0 ∧ ({ State.reset with i := 0xFF1#16 } : State).i.toNat + (15#4).toNat - 1 ≤ 0xFFF := by decide

/-- A lit pixel under a set bit, and a screen on which there is none. -/
theorem test_witness_DrwXorsSprite_collision :
    (∃ px py, px ≤ 63 ∧ py ≤ 31 ∧ pixel { State.reset with fb := 1#2048 } px py = true ∧
      spriteBit { State.reset with fb := 1#2048 } 0 1 1#4 px py = true) ∧
      ∀ px py, px ≤ 63 → py ≤ 31 → pixel State.reset px py = false :=
  ⟨⟨0, 0, by decide +kernel⟩, fun px py _ _ => by simp [pixel, State.reset, State.resetWith]⟩

theorem test_witness_DrwTwiceRestoresScreen :
    (0 : RegNum) ≠ 15 ∧ (1 : RegNum) ≠ 15 ∧ State.reset.i.toNat + (15#4).toNat - 1 ≤ 0xFFF := by decide

/-- Both sides of its last clause occur: an off pixel under a set bit, and (height 0) no set bit at all. -/
theorem test_witness_DrwTwiceRestoresScreen_flag :
    (∃ px py, px ≤ 63 ∧ py ≤ 31 ∧ pixel State.reset px py = false ∧ spriteBit State.reset 0 1 1#4 px py = true) ∧
      ¬ ∃ px py, px ≤ 63 ∧ py ≤ 31 ∧ pixel State.reset px py = false ∧ spriteBit State.reset 0 1 0#4 px py = true := by
  refine ⟨⟨0, 0, by decide +kernel⟩, ?_⟩
  rintro ⟨px, py, -, -, -, h⟩
  simp only [spriteBit, Bool.and_eq_true, decide_eq_true_eq, BitVec.toNat_ofNat] at h
  omega

theorem test_witness_SkipOnKey :
    (readV (start [(1, 0#8)]) 1).toNat = (0 : Fin 16).val ∧ (readV (start [(1, 15#8)]) 1).toNat = (15 : Fin 16).val ∧
      15 < (readV (start [(1, 16#8)]) 1).toNat := by decide

theorem test_witness_KeyWait :
    (∀ k : Fin 16, keyDown State.reset k = false) ∧
      (keyDown (pressing 15 State.reset) 15 = true ∧ ∀ j : Fin 16, j < 15 → keyDown (pressing 15 State.reset) j = false) ∧
      (keyDown (pressing 0 State.reset) 0 = true ∧ ∀ j : Fin 16, j < 0 → keyDown (pressing 0 State.reset) j = false) := by
  decide

theorem test_witness_BlockedKeyWaitStep :
    let s := placeWord State.reset 0xF30A#16
    s.pc.toNat ≤ 0xFFE ∧ decodeOp (opcodeAt s) = some (.ldVxK 3) ∧ ∀ k : Fin 16, keyDown s k = false := by decide

theorem test_witness_ResetValues :
    (79 : Nat) < 80 ∧ byteAt State.reset 79 = 0x80#8 ∧ byteAt State.reset 80 = 0#8 ∧ byteAt State.reset 0xFFF = 0#8 := by decide

theorem test_witness_StepKeepsInv : ∃ s t, Inv s ∧ step s = .next t :=
  ⟨placeWord State.reset 0x1FFF#16,
    (exists_next_of_ends (good := fun _ => true) (by decide)).imp fun _ h =>
      ⟨⟨by decide, by decide, by decide, fun k hk => absurd hk (by decide +revert)⟩, h.1⟩⟩

theorem test_witness_TransactionKeepsInv : Inv State.reset :=
  ⟨by decide, by decide, by decide, fun k hk => absurd hk (by decide +revert)⟩

theorem test_witness_ReachableMeetsInv :
    Reachable (transact .step (transact (.load [0x60#8, 0x07#8]) State.reset).1).1 :=
  .transact _ _ (.transact _ _ (.reset _))

/-- An infinite schedule, RESET, LOAD of T-F3's instruction and STEP for ever (R202), at its second transaction. -/
theorem test_stateAt :
    readV (stateAt (fun n => if n = 0 then .load [0x60#8, 0x07#8] else .step) State.reset 2) 0 = 7#8 := by decide

theorem test_witness_ResetKeyAckTransactions : (15 : Nat) < 16 ∧ (0 : Fin 16) ≠ 15 := by decide

theorem test_witness_LoadCopiesProgram :
    Memory.wf State.reset.config.font State.reset.mem ∧ (List.replicate 3584 0x60#8).length ≤ 3584 ∧ 3584 < (List.replicate 3585 0x60#8).length :=
  ⟨wf_reset, by rw [List.length_replicate], by rw [List.length_replicate]; decide⟩

theorem test_witness_StepTransactionResult :
    (∃ s t, step s = .next t) ∧ ∃ s f, step s = .fault f :=
  ⟨⟨_, (exists_next_of_ends (s := State.reset) (op := 0x00E0#16) (good := fun _ => true) (by decide)).imp fun _ h => h.1⟩,
    ⟨_, _, step_fault_of_faults (s := State.reset) (op := 0x00EE#16) (f := .stackUnderflow 0x200#16) (by decide)⟩⟩

theorem test_witness_ObserveReadsOnly : (15 : Nat) < 16 ∧ (0xFFF : Nat) < 0x1000 ∧ (2047 : Nat) < 2048 := by decide

theorem test_witness_FaultIsPersistent :
    step (placeWord State.reset 0x00EE#16) = .fault (.stackUnderflow 0x200#16) ∧
      ∀ t ∈ [Transaction.step, .key 3 true, .ackRedraw, .observe .pc], t ≠ .reset ∧ ∀ bytes, t ≠ .load bytes := by
  refine ⟨step_fault_of_faults (by decide), ?_⟩
  simp

theorem test_witness_JumpToSelfIsFixedPoint :
    let s := placeWord State.reset 0x1200#16
    decodeOp (opcodeAt s) = some (.jp 0x200#12) ∧ s.pc.toNat = (0x200#12).toNat ∧ s.pc.toNat ≤ 0xFFE ∧ s.dt = 0#8 ∧ s.st = 0#8 := by
  decide

end Sys2Proof.Tests
end

section
/-! PROOFS, family 00_scope.md. The configuration is a parameter (R6 (a)): phase 3, hence a STEP, hence every transaction keeps it. -/

namespace Sys2Proof.Machine

/-! Phase 3 of a STEP. -/

/-- The common shape of LD B, LD [I], LD Vx,[I] and DRW (R150): the range check adds nothing to what the access itself does. -/
theorem indexedAccess_keeps_config {s t u : State} {count : Nat} (hu : u.config = s.config)
    (h : indexedAccess s count u = .next t) : t.config = s.config := by
  obtain ⟨-, rfl⟩ := indexedAccess_eq_next.mp h
  exact hu

theorem execRet_keeps_config {s t : State} (h : execRet s = .next t) : t.config = s.config := by
  unfold execRet at h
  obtain ⟨k, q, -, -, hpop⟩ | ⟨-, hpop⟩ := pop_cases s <;> rw [hpop] at h <;> cases h
  rfl

theorem execCall_keeps_config {nnn : BitVec 12} {s t : State} (h : execCall nnn s = .next t) : t.config = s.config := by
  unfold execCall at h
  obtain ⟨_, q, -, hpush⟩ | ⟨-, hpush⟩ := push_cases s (s.pc + 2#16) <;> rw [hpush] at h <;> cases h
  rfl

theorem execSkp_keeps_config {x : RegNum} {s t : State} (h : execSkp x s = .next t) : t.config = s.config := by
  unfold execSkp at h
  obtain ⟨_, hkey⟩ | ⟨-, hkey⟩ := keyOperand_cases s x <;> rw [hkey] at h <;> cases h
  rfl

theorem execSknp_keeps_config {x : RegNum} {s t : State} (h : execSknp x s = .next t) : t.config = s.config := by
  unfold execSknp at h
  obtain ⟨_, hkey⟩ | ⟨-, hkey⟩ := keyOperand_cases s x <;> rw [hkey] at h <;> cases h
  rfl

theorem execLdVxK_keeps_config {x : RegNum} {s t : State} (h : execLdVxK x s = .next t) : t.config = s.config := by
  unfold execLdVxK at h
  cases hkey : lowestKey s <;> rw [hkey] at h <;> cases h <;> rfl

/-- Every form that completes keeps the configuration. The last group is the forms that always complete, each in a chain of
updates none of which writes the field. -/
theorem exec_keeps_config {i : Instr} {s t : State} (h : exec i s = .next t) : t.config = s.config := by
  cases i with
  | ret => exact execRet_keeps_config h
  | call nnn => exact execCall_keeps_config h
  | skp x => exact execSkp_keeps_config h
  | sknp x => exact execSknp_keeps_config h
  | ldVxK x => exact execLdVxK_keeps_config h
  | ldB x => exact indexedAccess_keeps_config (by simp) h
  | storeRegs x => exact indexedAccess_keeps_config (by simp) h
  | loadRegs x => exact indexedAccess_keeps_config (by simp) h
  | drw x y n => exact indexedAccess_keeps_config (by simp) h
  | cls | sys | jp | jpV0 | seImm | sneImm | seReg | sneReg | ldImm | addImm | ldReg | orReg | andReg | xorReg | addReg
  | subReg | shr | subnReg | shl | ldI | addI | rnd | ldF | ldVxDt | ldDtVx | ldStVx =>
    cases h
    rfl

theorem execWord_keeps_config {op : Word} {s t : State} (h : execWord op s = .next t) : t.config = s.config := by
  obtain ⟨i, -, hexec⟩ | ⟨-, hreport⟩ := execWord_cases op s
  · exact exec_keeps_config (hexec ▸ h)
  · rw [hreport] at h
    cases h
    simp

/-! A STEP and the other transactions. -/

theorem step_keeps_config {s t : State} (h : step s = .next t) : t.config = s.config := by
  obtain ⟨op, u, -, hexec, rfl⟩ := step_eq_next.mp h
  simpa using execWord_keeps_config hexec

theorem hostStep_config (s : State) : (hostStep s).config = s.config := by
  unfold hostStep
  split
  next t h => exact step_keeps_config h
  next => rfl
  next => rfl

/-- A refused write of the host leaves the state (R202), so an attempted one keeps what it keeps where it lands. -/
theorem applied_keeps_config {s : State} {r : Except HostError State} (h : ∀ t, r = .ok t → t.config = s.config) :
    (applied s r).1.config = s.config := by
  cases r with
  | ok t => exact h t rfl
  | error e => rfl

theorem hostLoad_keeps_config {bytes : List Byte} {s t : State} (h : hostLoad bytes s = .ok t) : t.config = s.config := by
  unfold hostLoad at h
  split at h <;> cases h
  simp

theorem hostKey_keeps_config {k : Nat} {pressed : Bool} {s t : State} (h : hostKey k pressed s = .ok t) :
    t.config = s.config := by
  unfold hostKey at h
  split at h <;> cases h
  rfl

/-- OBSERVE changes nothing (R201). -/
@[simp] theorem transact_observe_state (p : Probe) (s : State) : (transact (.observe p) s).1 = s := by
  simp only [transact]
  split <;> rfl

/-- Settles O60: by cases on the transaction; a STEP keeps the configuration because each form does. -/
theorem transactionKeepsConfig : Obligations.TransactionKeepsConfig := by
  intro t s
  cases t with
  | reset => exact hostReset_config s
  | load bytes => exact applied_keeps_config fun _ => hostLoad_keeps_config
  | key k pressed => exact applied_keeps_config fun _ => hostKey_keeps_config
  | ackRedraw => exact hostAckRedraw_config s
  | step => exact hostStep_config s
  | observe p => rw [transact_observe_state]

end Sys2Proof.Machine
end

section
/-! PROOFS, family 10_state.md, part 1. What phase 3 can answer, for the forms that do not always complete in one chain of
updates; later proofs split on these and do not unfold the forms. -/

namespace Sys2Proof.Machine

/-- RET completes only with a live slot, and then pops it into `pc` (R102). -/
theorem execRet_next {s t : State} (h : execRet s = .next t) :
    ∃ (k : Fin 16) (q : Fin 17), s.sp.val = k.val + 1 ∧ q.val = k.val ∧ t = jumpTo { s with sp := q } (s.stack.get k) := by
  unfold execRet at h
  obtain ⟨k, q, hsp, hq, hpop⟩ | ⟨-, hpop⟩ := pop_cases s <;> rw [hpop] at h <;> cases h
  exact ⟨k, q, hsp, hq, rfl⟩

/-- CALL completes only with a free slot, and then pushes `pc + 2` and jumps (R104). -/
theorem execCall_next {nnn : BitVec 12} {s t : State} (h : execCall nnn s = .next t) :
    ∃ (hsp : s.sp.val < 16) (q : Fin 17), q.val = s.sp.val + 1 ∧
      t = jumpTo { s with stack := s.stack.set s.sp.val (s.pc + 2#16) hsp, sp := q } (addrImm nnn) := by
  unfold execCall at h
  obtain ⟨hsp, q, hq, hpush⟩ | ⟨-, hpush⟩ := push_cases s (s.pc + 2#16) <;> rw [hpush] at h <;> cases h
  exact ⟨hsp, q, hq, rfl⟩

/-- SKP completes only on a key number, and then skips on the level of that key (R183, R186). -/
theorem execSkp_next {x : RegNum} {s t : State} (h : execSkp x s = .next t) :
    ∃ k : Fin 16, k.val = (readV s x).toNat ∧ t = skipIf s (keyDown s k) := by
  unfold execSkp at h
  obtain ⟨hk, hkey⟩ | ⟨-, hkey⟩ := keyOperand_cases s x <;> rw [hkey] at h <;> cases h
  exact ⟨⟨_, hk⟩, rfl, rfl⟩

/-- SKNP completes only on a key number, and then skips on the opposite level of that key (R184, R186). -/
theorem execSknp_next {x : RegNum} {s t : State} (h : execSknp x s = .next t) :
    ∃ k : Fin 16, k.val = (readV s x).toNat ∧ t = skipIf s (!keyDown s k) := by
  unfold execSknp at h
  obtain ⟨hk, hkey⟩ | ⟨-, hkey⟩ := keyOperand_cases s x <;> rw [hkey] at h <;> cases h
  exact ⟨⟨_, hk⟩, rfl, rfl⟩

/-- LD Vx,K waits in place or takes the lowest key (R185). -/
theorem execLdVxK_next {x : RegNum} {s t : State} (h : execLdVxK x s = .next t) :
    (lowestKey s = none ∧ t = s) ∨
      ∃ k, lowestKey s = some k ∧ t = advance (writeV s x (BitVec.ofNat 8 k.val)) := by
  unfold execLdVxK at h
  cases hkey : lowestKey s <;> rw [hkey] at h <;> cases h
  · exact .inl ⟨rfl, rfl⟩
  · exact .inr ⟨_, rfl, rfl⟩

/-- Phase 3 of an opcode that completes: the decoded form did, or the opcode was reported (R83, R87). -/
theorem execWord_next {op : Word} {s t : State} (h : execWord op s = .next t) :
    (∃ i, decodeOp op = some i ∧ exec i s = .next t) ∨ (decodeOp op = none ∧ t = advance (report s op)) := by
  obtain ⟨i, hdecode, hexec⟩ | ⟨hdecode, hreport⟩ := execWord_cases op s
  · exact .inl ⟨i, hdecode, hexec ▸ h⟩
  · rw [hreport] at h
    cases h
    exact .inr ⟨hdecode, rfl⟩

/-- The opcode of a STEP that gets past its fetch (R81). -/
theorem fetch_eq_ok {s : State} {op : Word} (h : fetch s = .ok op) : s.pc.toNat ≤ 0xFFE ∧ op = opcodeAt s := by
  obtain ⟨-, hf⟩ | ⟨hpc, hf⟩ := fetch_cases s <;> rw [hf] at h <;> cases h
  exact ⟨hpc, rfl⟩

/-- A STEP that completes is phase 3 of the opcode at `pc`, from cleared outputs, and then the tick (R80, R95). -/
theorem step_next {s t : State} (h : step s = .next t) :
    s.pc.toNat ≤ 0xFFE ∧ ∃ u, execWord (opcodeAt s) (clearOutputs s) = .next u ∧ t = tick u := by
  obtain ⟨op, u, hfetch, hexec, htick⟩ := step_eq_next.mp h
  obtain ⟨hpc, rfl⟩ := fetch_eq_ok hfetch
  exact ⟨hpc, u, hexec, htick⟩

/-- STEP as a transaction either completes or leaves the state alone (R86). -/
theorem hostStep_cases (s : State) : step s = .next (hostStep s) ∨ hostStep s = s := by
  unfold hostStep
  split
  next t h => exact .inl h
  next => exact .inr rfl
  next => exact .inr rfl

end Sys2Proof.Machine
end

section
/-! PROOFS, family 10_state.md, part 2. The invariant of R30: the updates keep it, hence phase 3, a STEP, every transaction and
every run. -/

namespace Sys2Proof.Machine

/-! Updates of fields `Inv` does not speak of: its clauses stand as they are. -/

theorem inv_writeV {s : State} (hs : Inv s) (r : RegNum) (b : Byte) : Inv (writeV s r b) :=
  ⟨hs.mem, hs.index, hs.pc, hs.stack⟩

theorem inv_loadBlock {s : State} (hs : Inv s) (x : RegNum) : Inv (loadBlock s x) := by
  constructor <;> simp only [loadBlock_config, loadBlock_mem, loadBlock_i, loadBlock_pc, loadBlock_sp, loadBlock_stack]
  exacts [hs.mem, hs.index, hs.pc, hs.stack]

theorem inv_withCanvas {s : State} (hs : Inv s) (c : Canvas) : Inv (withCanvas s c) :=
  ⟨hs.mem, hs.index, hs.pc, hs.stack⟩

theorem inv_report {s : State} (hs : Inv s) (op : Word) : Inv (report s op) :=
  ⟨hs.mem, hs.index, hs.pc, hs.stack⟩

theorem inv_clearOutputs {s : State} (hs : Inv s) : Inv (clearOutputs s) :=
  ⟨hs.mem, hs.index, hs.pc, hs.stack⟩

theorem inv_tick {s : State} (hs : Inv s) : Inv (tick s) :=
  ⟨hs.mem, hs.index, hs.pc, hs.stack⟩

/-! Updates of fields it speaks of. -/

theorem inv_jumpTo {s : State} (hs : Inv s) {target : Word} (ht : target.toNat ≤ 0x10FE) : Inv (jumpTo s target) :=
  ⟨hs.mem, hs.index, ht, hs.stack⟩

/-- Where a fetch succeeds, `pc` has room for the longest advance (R18). -/
theorem inv_skipIf {s : State} (hs : Inv s) (hpc : s.pc.toNat ≤ 0xFFE) (c : Bool) : Inv (skipIf s c) := by
  refine ⟨hs.mem, hs.index, ?_, hs.stack⟩
  cases c <;> simp <;> omega

theorem inv_advance {s : State} (hs : Inv s) (hpc : s.pc.toNat ≤ 0xFFE) : Inv (advance s) :=
  inv_skipIf hs hpc false

theorem inv_setIndex {s : State} (hs : Inv s) {i : Word} (hi : i.toNat ≤ 0xFFF) : Inv { s with i := i } :=
  ⟨hs.mem, hi, hs.pc, hs.stack⟩

theorem inv_storeBytes {s : State} (hs : Inv s) {a : Nat} {bs : List Byte} (h : a + bs.length ≤ 0x1000) :
    Inv (storeBytes s a bs) :=
  ⟨Memory.wf_writeList hs.mem bs h, hs.index, hs.pc, hs.stack⟩

/-- The slots that stay live after a pop were live before it. -/
theorem inv_setSp {s : State} (hs : Inv s) {q : Fin 17} (hq : q.val ≤ s.sp.val) : Inv { s with sp := q } :=
  ⟨hs.mem, hs.index, hs.pc, fun k hk => hs.stack k (Nat.lt_of_lt_of_le hk hq)⟩

theorem inv_pushed {s : State} (hs : Inv s) (hsp : s.sp.val < 16) {q : Fin 17} (hq : q.val = s.sp.val + 1) {a : Word}
    (ha : a.toNat ≤ 0x1000) : Inv { s with stack := s.stack.set s.sp.val a hsp, sp := q } := by
  refine ⟨hs.mem, hs.index, hs.pc, fun k hk => ?_⟩
  change k.val < q.val at hk
  simp only [Vector.get_eq_getElem, Vector.getElem_set]
  split
  next => exact ha
  next hne => exact hs.stack k (by omega)

/-- LD B, LD [I], LD Vx,[I], DRW: past the range check the access is inside memory or empty (R150). -/
theorem inv_indexedAccess {s t u : State} {count : Nat} (hu : count = 0 ∨ inRange s count → Inv u)
    (h : indexedAccess s count u = .next t) : Inv t := by
  obtain ⟨hr, rfl⟩ := indexedAccess_eq_next.mp h
  exact hu hr

theorem addrImm_le (nnn : BitVec 12) : (addrImm nnn).toNat ≤ 0xFFF := by
  rw [addrImm_toNat]
  omega

/-- The largest target of JP V0: `0xFFF + 0xFF` (R18, R109). -/
theorem addrImm_add_byteWord_le (nnn : BitVec 12) (b : Byte) : (addrImm nnn + byteWord b).toNat ≤ 0x10FE := by
  have := addrImm_le nnn
  have := byteWord_toNat b
  have := b.isLt
  rw [BitVec.toNat_add]
  omega

theorem indexSum_le (i : Word) (a : Byte) : (indexSum i a).toNat ≤ 0xFFF := by
  rw [indexSum_toNat]
  omega

theorem glyphAddr_toNat (a : Byte) : (glyphAddr a).toNat = 5 * (a.toNat % 16) := by
  have : (a &&& 0x0F#8).toNat = a.toNat % 16 := by
    rw [BitVec.toNat_and]
    exact Nat.and_two_pow_sub_one_eq_mod a.toNat 4
  rw [glyphAddr, BitVec.toNat_mul, byteWord_toNat, this]
  simp
  omega

/-! Phase 3, a STEP. -/

/-- Every form that completes where the fetch did keeps the invariant. The last group writes registers, screen, timers, draws or
outputs alone and then advances. -/
theorem exec_keeps_inv {i : Instr} {s t : State} (hs : Inv s) (hpc : s.pc.toNat ≤ 0xFFE) (h : exec i s = .next t) :
    Inv t := by
  cases i with
  | ret =>
    obtain ⟨k, q, hsp, hq, rfl⟩ := execRet_next h
    have htop := hs.stack k (by omega)
    exact inv_jumpTo (inv_setSp hs (by omega)) (by omega)
  | call nnn =>
    obtain ⟨hsp, q, hq, rfl⟩ := execCall_next h
    have hret : (s.pc + 2#16).toNat ≤ 0x1000 := by simp; omega
    exact inv_jumpTo (inv_pushed hs hsp hq hret) ((addrImm_le nnn).trans (by decide))
  | jp nnn =>
    cases h
    exact inv_jumpTo hs ((addrImm_le nnn).trans (by decide))
  | jpV0 nnn =>
    cases h
    exact inv_jumpTo hs (addrImm_add_byteWord_le nnn _)
  | seImm | sneImm | seReg | sneReg =>
    cases h
    exact inv_skipIf hs hpc _
  | skp x =>
    obtain ⟨k, -, rfl⟩ := execSkp_next h
    exact inv_skipIf hs hpc _
  | sknp x =>
    obtain ⟨k, -, rfl⟩ := execSknp_next h
    exact inv_skipIf hs hpc _
  | ldVxK x =>
    obtain ⟨-, rfl⟩ | ⟨k, -, rfl⟩ := execLdVxK_next h
    · exact hs
    · exact inv_advance (inv_writeV hs x _) hpc
  | ldI nnn =>
    cases h
    exact inv_advance (inv_setIndex hs (addrImm_le nnn)) hpc
  | addI x =>
    cases h
    exact inv_advance (inv_setIndex (inv_writeV hs regF _) (indexSum_le _ _)) hpc
  | ldF x =>
    cases h
    exact inv_advance (inv_setIndex hs (by rw [glyphAddr_toNat]; omega)) hpc
  | ldB x | storeRegs x =>
    exact inv_indexedAccess (fun hr => inv_advance (inv_storeBytes hs (by simpa [inRange] using hr)) hpc) h
  | loadRegs x => exact inv_indexedAccess (fun _ => inv_advance (inv_loadBlock hs x) hpc) h
  | drw x y n => exact inv_indexedAccess (fun _ => inv_advance (inv_withCanvas hs _) hpc) h
  | cls | sys | ldImm | addImm | ldReg | orReg | andReg | xorReg | addReg | subReg | shr | subnReg | shl | rnd | ldVxDt
  | ldDtVx | ldStVx =>
    cases h
    exact inv_advance ⟨hs.mem, hs.index, hs.pc, hs.stack⟩ hpc

theorem execWord_keeps_inv {op : Word} {s t : State} (hs : Inv s) (hpc : s.pc.toNat ≤ 0xFFE)
    (h : execWord op s = .next t) : Inv t := by
  obtain ⟨i, -, hexec⟩ | ⟨-, rfl⟩ := execWord_next h
  · exact exec_keeps_inv hs hpc hexec
  · exact inv_advance (inv_report hs op) hpc

/-- Settles O51: the fetch bounds `pc` by `0xFFE` (R82), from there each form keeps the invariant, and the outputs and the tick touch
none of its fields. -/
theorem stepKeepsInv : Obligations.StepKeepsInv := by
  intro s t hs h
  obtain ⟨hpc, u, hexec, rfl⟩ := step_next h
  exact inv_tick (execWord_keeps_inv (inv_clearOutputs hs) hpc hexec)

/-! RESET, the other transactions, runs. -/

theorem inv_resetWith (config : Config) : Inv (State.resetWith config) :=
  ⟨Memory.wf_nil, by simp, by simp, fun k hk => absurd hk (Nat.not_lt_zero _)⟩

/-- Settles O50: memory has no cell, no slot is live, `I = 0` and `pc = 0x200`. -/
theorem resetMeetsInv : Obligations.ResetMeetsInv :=
  ⟨inv_resetWith defaultConfig, inv_resetWith⟩

/-- An attempted write of the host is applied completely or not at all (R202): what holds of the state before it and of what it
writes holds after it. -/
theorem applied_keeps {P : State → Prop} {s : State} (hs : P s) {r : Except HostError State} (h : ∀ t, r = .ok t → P t) :
    P (applied s r).1 := by
  cases r with
  | ok t => exact h t rfl
  | error e => exact hs

theorem hostLoad_keeps_inv {bytes : List Byte} {s t : State} (hs : Inv s) (h : hostLoad bytes s = .ok t) : Inv t := by
  unfold hostLoad at h
  split at h <;> cases h
  next hlen => exact inv_storeBytes hs (by simp only [Config.progBase, Config.progMax] at *; omega)

theorem hostKey_keeps_inv {k : Nat} {pressed : Bool} {s t : State} (hs : Inv s) (h : hostKey k pressed s = .ok t) :
    Inv t := by
  unfold hostKey at h
  split at h <;> cases h
  exact ⟨hs.mem, hs.index, hs.pc, hs.stack⟩

theorem hostReset_inv (s : State) : Inv (hostReset s) :=
  have hr := inv_resetWith s.config
  ⟨hr.mem, hr.index, hr.pc, hr.stack⟩

theorem hostStep_keeps_inv {s : State} (hs : Inv s) : Inv (hostStep s) := by
  obtain h | h := hostStep_cases s
  · exact stepKeepsInv s _ hs h
  · rwa [h]

/-- Settles O59: by cases on the transaction; RESET needs nothing of the state before, LOAD ends below `0x1000`, a STEP is O51. -/
theorem transactionKeepsInv : Obligations.TransactionKeepsInv := by
  intro t s hs
  cases t with
  | reset => exact hostReset_inv s
  | load bytes => exact applied_keeps hs fun _ => hostLoad_keeps_inv hs
  | key k pressed => exact applied_keeps hs fun _ => hostKey_keeps_inv hs
  | ackRedraw => exact ⟨hs.mem, hs.index, hs.pc, hs.stack⟩
  | step => exact hostStep_keeps_inv hs
  | observe p => rwa [transact_observe_state]

theorem reachable_inv {s : State} (h : Reachable s) : Inv s := by
  induction h with
  | reset config => exact inv_resetWith config
  | transact t s _ ih => exact transactionKeepsInv t s ih

/-- Settles O52: by induction on the run; a state an infinite schedule passes through is reachable. -/
theorem reachableMeetsInv : Obligations.ReachableMeetsInv :=
  ⟨fun _ => reachable_inv, fun config schedule n => reachable_inv (reachable_iff_stateAt.mpr ⟨config, schedule, n, rfl⟩)⟩

end Sys2Proof.Machine
end

section
/-! PROOFS, family 10_state.md, part 3. Which form writes what: one table for the parts of the state and one for the general
registers, each tied to `exec` by a frame theorem; the claims are read off the tables. -/

namespace Sys2Proof.Machine

/-- The parts a form may write in phase 3 (R84). -/
def writtenParts (i : Instr) : List Part :=
  match i with
  | .cls | .drw _ _ _ => [.screen, .redraw]
  | .ret => [.sp]
  | .call _ => [.stack, .sp]
  | .sys _ => [.report]
  | .ldI _ | .addI _ | .ldF _ => [.index]
  | .ldB _ | .storeRegs _ => [.memory]
  | .rnd _ _ => [.draws]
  | .ldDtVx _ => [.dt]
  | .ldStVx _ => [.st]
  | .jp _ | .jpV0 _ | .seImm _ _ | .sneImm _ _ | .seReg _ _ | .sneReg _ _ | .skp _ | .sknp _ | .ldImm _ _ | .addImm _ _
  | .ldReg _ _ | .orReg _ _ | .andReg _ _ | .xorReg _ _ | .addReg _ _ | .subReg _ _ | .shr _ _ | .subnReg _ _ | .shl _ _
  | .ldVxDt _ | .ldVxK _ | .loadRegs _ => []

/-- The general registers a form may write in phase 3: its destination, and VF for the flag writers (R26). -/
def writtenRegs (i : Instr) : List RegNum :=
  match i with
  | .ldImm x _ | .addImm x _ | .ldReg x _ | .orReg x _ | .andReg x _ | .xorReg x _ | .rnd x _ | .ldVxDt x | .ldVxK x => [x]
  | .addReg x _ | .subReg x _ | .shr x _ | .subnReg x _ | .shl x _ => [x, regF]
  | .addI _ | .drw _ _ _ => [regF]
  | .loadRegs x => (List.finRange 16).filter (· ≤ x)
  | .cls | .ret | .sys _ | .jp _ | .call _ | .seImm _ _ | .sneImm _ _ | .seReg _ _ | .sneReg _ _ | .ldI _ | .jpV0 _
  | .skp _ | .sknp _ | .ldDtVx _ | .ldStVx _ | .ldF _ | .ldB _ | .storeRegs _ => []

/-- A frame, part by part. -/
theorem keepsAllBut_iff {ps : List Part} {s t : State} : keepsAllBut ps s t ↔
    (.index ∈ ps ∨ t.i = s.i) ∧ (.memory ∈ ps ∨ ∀ a, byteAt t a = byteAt s a) ∧ (.stack ∈ ps ∨ t.stack = s.stack) ∧
    (.sp ∈ ps ∨ t.sp = s.sp) ∧ (.dt ∈ ps ∨ t.dt = s.dt) ∧ (.st ∈ ps ∨ t.st = s.st) ∧ (.screen ∈ ps ∨ t.fb = s.fb) ∧
    (.redraw ∈ ps ∨ t.needsRedraw = s.needsRedraw) ∧ (.keys ∈ ps ∨ t.keys = s.keys) ∧
    (.report ∈ ps ∨ t.unknownOpcode = s.unknownOpcode ∧ t.soundTrigger = s.soundTrigger) ∧
    (.draws ∈ ps ∨ t.draws = s.draws) ∧ (.config ∈ ps ∨ t.config = s.config) := by
  simp only [or_iff_not_imp_left]
  constructor
  · exact fun h => ⟨h .index, h .memory, h .stack, h .sp, h .dt, h .st, h .screen, h .redraw, h .keys, h .report, h .draws,
      h .config⟩
  · rintro ⟨hi, hmem, hstack, hsp, hdt, hst, hfb, hredraw, hkeys, hreport, hdraws, hconfig⟩ p
    cases p <;> assumption

/-- Phase 3 writes no part outside the table. -/
theorem exec_keepsAllBut {i : Instr} {s t : State} (h : exec i s = .next t) : keepsAllBut (writtenParts i) s t := by
  rw [keepsAllBut_iff]
  cases i with
  | ret =>
    obtain ⟨k, q, -, -, rfl⟩ := execRet_next h
    simp [writtenParts, byteAt]
  | call nnn =>
    obtain ⟨hsp, q, -, rfl⟩ := execCall_next h
    simp [writtenParts, byteAt]
  | skp x =>
    obtain ⟨k, -, rfl⟩ := execSkp_next h
    simp [writtenParts]
  | sknp x =>
    obtain ⟨k, -, rfl⟩ := execSknp_next h
    simp [writtenParts]
  | ldVxK x => obtain ⟨-, rfl⟩ | ⟨k, -, rfl⟩ := execLdVxK_next h <;> simp [writtenParts]
  | ldB | storeRegs | loadRegs | drw =>
    obtain ⟨-, rfl⟩ := indexedAccess_eq_next.mp h
    simp [writtenParts]
  | cls | sys | jp | jpV0 | seImm | sneImm | seReg | sneReg | ldImm | addImm | ldReg | orReg | andReg | xorReg | addReg
  | subReg | shr | subnReg | shl | ldI | addI | rnd | ldF | ldVxDt | ldDtVx | ldStVx =>
    cases h
    simp [writtenParts, flagThenResult, byteAt]

/-- Phase 3 writes no general register outside the table. -/
theorem exec_regsKeptBut {i : Instr} {s t : State} (h : exec i s = .next t) : regsKeptBut (writtenRegs i) s t := by
  intro r hr
  cases i with
  | ret =>
    obtain ⟨k, q, -, -, rfl⟩ := execRet_next h
    rfl
  | call nnn =>
    obtain ⟨hsp, q, -, rfl⟩ := execCall_next h
    rfl
  | skp x =>
    obtain ⟨k, -, rfl⟩ := execSkp_next h
    rfl
  | sknp x =>
    obtain ⟨k, -, rfl⟩ := execSknp_next h
    rfl
  | ldVxK x =>
    obtain ⟨-, rfl⟩ | ⟨k, -, rfl⟩ := execLdVxK_next h
    · rfl
    · exact readV_writeV_ne s x r _ (mt List.mem_singleton.mpr hr)
  | ldB | storeRegs =>
    obtain ⟨-, rfl⟩ := indexedAccess_eq_next.mp h
    rfl
  | loadRegs x =>
    obtain ⟨-, rfl⟩ := indexedAccess_eq_next.mp h
    have hr : ¬ r ≤ x := by simpa [writtenRegs] using hr
    simp [readV_loadBlock, hr]
  | drw x y n =>
    obtain ⟨-, rfl⟩ := indexedAccess_eq_next.mp h
    exact readV_writeV_ne _ regF r _ (mt List.mem_singleton.mpr hr)
  | addI x =>
    cases h
    exact readV_writeV_ne _ regF r _ (mt List.mem_singleton.mpr hr)
  | ldImm x | addImm x | ldReg x | orReg x | andReg x | xorReg x | ldVxDt x | rnd x =>
    cases h
    exact readV_writeV_ne _ x r _ (mt List.mem_singleton.mpr hr)
  | addReg x y | subReg x y | shr x y | subnReg x y | shl x y =>
    cases h
    simp only [writtenRegs, List.mem_cons, List.not_mem_nil, or_false, not_or] at hr
    obtain ⟨hx, hF⟩ := hr
    simp [flagThenResult, readV_writeV_ne, hx, hF]
  | cls | sys | jp | jpV0 | seImm | sneImm | seReg | sneReg | ldI | ldF | ldDtVx | ldStVx =>
    cases h
    rfl

/-- The shape of the clauses of O14: a part is kept, or the form is one of those the table lists for it. -/
theorem exec_kept_or {i : Instr} {s t : State} (h : exec i s = .next t) (p : Part) {Q : Prop}
    (hQ : p ∈ writtenParts i → Q) : kept p s t ∨ Q := by
  by_cases hp : p ∈ writtenParts i
  · exact .inr (hQ hp)
  · exact .inl (exec_keepsAllBut h p hp)

/-- No form clears the redraw flag (R24): the two that write it set it. -/
theorem exec_keeps_redraw_set {i : Instr} {s t : State} (h : exec i s = .next t) (hs : s.needsRedraw = true) :
    t.needsRedraw = true := by
  by_cases hp : .redraw ∈ writtenParts i
  · cases i with
    | cls => cases h; rfl
    | drw x y n =>
      obtain ⟨-, rfl⟩ := indexedAccess_eq_next.mp h
      rfl
    | _ => simp [writtenParts] at hp
  · exact (exec_keepsAllBut h .redraw hp).trans hs

/-- No form writes the trigger (R89): SYS, the one that reports, writes the opcode alone. -/
theorem exec_keeps_soundTrigger {i : Instr} {s t : State} (h : exec i s = .next t) : t.soundTrigger = s.soundTrigger := by
  by_cases hp : .report ∈ writtenParts i
  · cases i with
    | sys nnn => cases h; rfl
    | _ => simp [writtenParts] at hp
  · exact (exec_keepsAllBut h .report hp).2

/-- Settles O14: each clause is read off the table of written parts. -/
theorem onlyListedInstructionsWrite : Obligations.OnlyListedInstructionsWrite := by
  intro i s t h
  have hframe := exec_keepsAllBut h
  have hscreen : (kept .screen s t ∧ kept .redraw s t) ∨ .screen ∈ writtenParts i ∨ .redraw ∈ writtenParts i := by
    by_cases hp : .screen ∈ writtenParts i ∨ .redraw ∈ writtenParts i
    · exact .inr hp
    · exact .inl ⟨hframe .screen fun e => hp (.inl e), hframe .redraw fun e => hp (.inr e)⟩
  refine ⟨hframe .keys ?_, hframe .config ?_, exec_keeps_redraw_set h, exec_keeps_soundTrigger h,
    exec_kept_or h .index ?_, exec_kept_or h .memory ?_, exec_kept_or h .stack ?_, exec_kept_or h .sp ?_,
    exec_kept_or h .dt ?_, exec_kept_or h .st ?_, hscreen.imp_right ?_, (exec_kept_or h .report ?_).imp_left And.left,
    exec_kept_or h .draws ?_⟩
  all_goals
    clear h hframe hscreen
    cases i <;> simp [writtenParts]

/-- Settles O15: a changed VF is a written one, and the table of written registers lists who writes register 15. -/
theorem onlyFlagWritersTouchVF : Obligations.OnlyFlagWritersTouchVF := by
  intro i s t h hne
  have hmem : regF ∈ writtenRegs i := by
    by_contra hr
    exact hne (exec_regsKeptBut h regF hr)
  clear h hne
  cases i with
  | addReg | subReg | shr | subnReg | shl | addI | drw => simp
  | ldImm x | addImm x | rnd x | ldReg x | orReg x | andReg x | xorReg x | ldVxDt x | ldVxK x =>
    obtain rfl : regF = x := List.mem_singleton.mp hmem
    simp [regF]
  | loadRegs x =>
    have hx : regF ≤ x := by simpa [writtenRegs] using hmem
    obtain rfl : x = regF := Fin.last_le_iff.mp hx
    simp [regF]
  | _ => simp [writtenRegs] at hmem

end Sys2Proof.Machine
end

section
/-! PROOFS, family 10_state.md, part 4. The timers across a STEP, the outputs of the STEP before, the values after RESET. -/

namespace Sys2Proof.Machine

/-! The timers (R21, R22, R88). -/

theorem report_keepsAllBut (s : State) (op : Word) : keepsAllBut [.report] s (advance (report s op)) := by
  simp [keepsAllBut_iff]

/-- A part that the forms `form x` alone write, over phase 3 of an opcode: the opcode is one of them, or the part is kept. -/
theorem execWord_runs_or_keeps {op : Word} {s t : State} {p : Part} {form : RegNum → Instr} (hp : p ≠ .report)
    (hform : ∀ i, p ∈ writtenParts i → ∃ x, i = form x) (h : execWord op s = .next t) :
    (∃ x, decodeOp op = some (form x) ∧ exec (form x) s = .next t) ∨
      ((∀ x, decodeOp op ≠ some (form x)) ∧ kept p s t) := by
  obtain ⟨i, hdecode, hexec⟩ | ⟨hdecode, rfl⟩ := execWord_next h
  · by_cases hi : ∃ x, i = form x
    · obtain ⟨x, rfl⟩ := hi
      exact .inl ⟨x, hdecode, hexec⟩
    · refine .inr ⟨fun x e => hi ⟨x, ?_⟩, exec_keepsAllBut hexec p fun e => hi (hform i e)⟩
      exact Option.some.inj (hdecode.symm.trans e)
  · exact .inr ⟨by simp [hdecode], report_keepsAllBut s op p (by simpa using hp)⟩

theorem dt_written_by_ldDtVx (i : Instr) (h : .dt ∈ writtenParts i) : ∃ x, i = .ldDtVx x := by
  cases i <;> simp [writtenParts] at h ⊢

theorem st_written_by_ldStVx (i : Instr) (h : .st ∈ writtenParts i) : ∃ x, i = .ldStVx x := by
  cases i <;> simp [writtenParts] at h ⊢

/-- The trigger fires exactly when the sound timer ticks from 1 (R89). -/
theorem tick_soundTrigger_iff (s : State) : (tick s).soundTrigger = true ↔ s.st.toNat = 1 := by
  simp [BitVec.toNat_eq]

/-- Settles O9: the tick counts down from what phase 3 left, and phase 3 leaves what LD DT,Vx or LD ST,Vx moved or the old value. -/
theorem timersAcrossStep : Obligations.TimersAcrossStep := by
  intro s t h
  obtain ⟨-, u, hexec, rfl⟩ := step_next h
  simp only [tick_dt, tick_st, countDown_toNat, tick_soundTrigger_iff]
  constructor
  · obtain ⟨x, hx, hld⟩ | ⟨hx, hkept⟩ := execWord_runs_or_keeps (by decide) dt_written_by_ldDtVx hexec
    · cases hld
      exact .inl ⟨x, hx, rfl⟩
    · have hdt : u.dt = s.dt := hkept
      exact .inr ⟨hx, by rw [hdt]⟩
  · obtain ⟨x, hx, hld⟩ | ⟨hx, hkept⟩ := execWord_runs_or_keeps (by decide) st_written_by_ldStVx hexec
    · cases hld
      exact .inl ⟨x, hx, rfl, Iff.rfl⟩
    · have hst : u.st = s.st := hkept
      exact .inr ⟨hx, by rw [hst], by rw [hst]⟩

/-- Settles O12: the fetch reads memory and `pc` alone, and phase 3 starts from cleared outputs. -/
theorem oldOutputsAreNotRead : Obligations.OldOutputsAreNotRead := by
  intro s trigger op
  have hfetch : fetch { s with soundTrigger := trigger, unknownOpcode := op } = fetch s := rfl
  have hclear : clearOutputs { s with soundTrigger := trigger, unknownOpcode := op } = clearOutputs s := rfl
  simp only [step, hfetch, hclear]

/-- Memory after RESET is what its addresses read as unlisted (R29, R43). -/
theorem byteAt_resetWith (config : Config) (a : Nat) :
    byteAt (State.resetWith config) a = Memory.unlisted config.font a := rfl

/-- Settles O49: the listed fields are constants of `State.resetWith`; memory has no cell, so each byte is the unlisted one. -/
theorem resetValues : Obligations.ResetValues := by
  intro config
  refine ⟨fun r => ?_, rfl, rfl, fun k => ?_, rfl, rfl, rfl, fun k => ?_, fun a ha _ => ?_, fun px py _ _ => ?_,
    fun k => ?_, rfl⟩
  · simp [readV, Vector.get_eq_getElem]
  · simp [Vector.get_eq_getElem]
  · simp [byteAt_resetWith, Memory.unlisted]
  · simp [byteAt_resetWith, Memory.unlisted, Nat.not_lt.mpr ha]
  · simp [pixel]
  · simp [keyDown, Vector.get_eq_getElem]

end Sys2Proof.Machine
end

section
/-! PROOFS, family 20_memory.md. `MemWrite` is a one-byte block store, and a canonical memory is the list of the addresses whose
byte differs from the content after RESET. -/

namespace Sys2Proof.Machine

/-! `MemWrite` (R42). -/

theorem memWrite_of_le {s : State} {a : Nat} {b : Byte} (ha : a ≤ 0xFFF) : memWrite s a b = .ok (storeBytes s a [b]) :=
  if_neg (Nat.not_lt.mpr ha)

theorem memWrite_of_gt {s : State} {a : Nat} {b : Byte} (ha : a > 0xFFF) :
    memWrite s a b = .error (.outOfRange (BitVec.ofNat 16 a)) :=
  if_pos ha

/-- The frame of a store: it writes memory alone (R42). -/
theorem storeBytes_keepsAllBut (s : State) (a : Nat) (bs : List Byte) : keepsAllBut [.memory] s (storeBytes s a bs) := by
  simp [keepsAllBut_iff]

theorem storeBytes_regsKeptBut (s : State) (a : Nat) (bs : List Byte) : regsKeptBut [] s (storeBytes s a bs) :=
  fun _ _ => rfl

/-- Settles O31: inside memory the write is a one-byte store, and the laws of `Memory.write` give its bytes and its form. -/
theorem memWriteChangesOneByte : Obligations.MemWriteChangesOneByte := by
  intro s a b hs
  refine ⟨fun ha => ⟨storeBytes s a [b], memWrite_of_le ha, ?_, fun c hc => ?_, ?_, rfl, storeBytes_keepsAllBut s a [b],
    storeBytes_regsKeptBut s a [b]⟩, memWrite_of_gt⟩
  · exact Memory.read_write_same hs a b
  · exact Memory.read_write_other s.mem b hc
  · exact Memory.wf_write hs b ha

/-! Equal reads (R40). -/

section EqualReads

variable {font : Font}

theorem Memory.read_cons_same (k : Nat) (b : Byte) (m : Memory) : Memory.read font ((k, b) :: m) k = b :=
  if_pos rfl

theorem Memory.read_cons_other {k a : Nat} (b : Byte) (m : Memory) (h : k ≠ a) :
    Memory.read font ((k, b) :: m) a = Memory.read font m a :=
  if_neg h

theorem Memory.above_cons_of_lt {k l : Nat} {c : Byte} {n : Memory} (hl : Memory.above l n) (h : k < l) :
    Memory.above k ((l, c) :: n) :=
  List.forall_mem_cons.mpr ⟨h, fun d hd => h.trans (hl d hd)⟩

/-- A memory that reads the same as a canonical one does not lie wholly above its first cell: there it would read the unlisted
byte, which no canonical cell holds. -/
theorem Memory.not_above_head {k : Nat} {b : Byte} {m n : Memory} (hm : Memory.wf font ((k, b) :: m))
    (hread : Memory.read font ((k, b) :: m) k = Memory.read font n k) : ¬ Memory.above k n := by
  intro hn
  obtain ⟨-, -, hb, -⟩ := Memory.wf_cons.mp hm
  rw [Memory.read_cons_same, Memory.read_of_above hn] at hread
  exact hb hread

/-- Behind an equal first cell, the tails of two canonical memories that read the same read the same. -/
theorem Memory.read_tail_eq {k : Nat} {b c : Byte} {m n : Memory} (hm : Memory.above k m) (hn : Memory.above k n)
    (hread : ∀ a, Memory.read font ((k, b) :: m) a = Memory.read font ((k, c) :: n) a) (a : Nat) :
    Memory.read font m a = Memory.read font n a := by
  by_cases h : k = a
  · subst h
    rw [Memory.read_of_above hm, Memory.read_of_above hn]
  · simpa only [Memory.read_cons_other _ _ h] using hread a

end EqualReads

/-- Settles O32: by induction on the cells; the first cells have the same address, since neither memory lies above the other's. -/
theorem canonicalMemoriesAreEqual : Obligations.CanonicalMemoriesAreEqual := by
  intro font m
  induction m with
  | nil =>
    intro n _ hn hread
    cases n with
    | nil => rfl
    | cons d n => exact absurd (List.forall_mem_nil _) (Memory.not_above_head hn (hread d.1).symm)
  | cons d m ih =>
    intro n hm hn hread
    obtain ⟨k, b⟩ := d
    cases n with
    | nil => exact absurd (List.forall_mem_nil _) (Memory.not_above_head hm (hread k))
    | cons e n =>
      obtain ⟨l, c⟩ := e
      obtain ⟨hkm, -, -, hwm⟩ := Memory.wf_cons.mp hm
      obtain ⟨hln, -, -, hwn⟩ := Memory.wf_cons.mp hn
      obtain hlt | rfl | hlt := Nat.lt_trichotomy k l
      · exact absurd (Memory.above_cons_of_lt hln hlt) (Memory.not_above_head hm (hread k))
      · have hbc : b = c := by simpa only [Memory.read_cons_same] using hread k
        rw [hbc, ih n hwm hwn (Memory.read_tail_eq hkm hln hread)]
      · exact absurd (Memory.above_cons_of_lt hkm hlt) (Memory.not_above_head hn (hread l).symm)

end Sys2Proof.Machine
end

section
/-! PROOFS, family 30_encoding.md, part 1. A word is its fields put together, and what a decoder answers for it is right: an
instruction that encodes to the word, or none for a word of the unknown table. -/

namespace Sys2Proof

/-! Each format on the fields of a word gives the word back (R62, R63). -/

theorem encNNN_fields (op : Word) : encNNN (opTop op) (opNNN op) = op := by
  apply BitVec.eq_of_getLsbD_eq
  intro k hk
  simp only [encNNN, opTop, opNNN, BitVec.getLsbD_append, BitVec.getLsbD_extractLsb']
  interval_cases k <;> simp

theorem encXNN_fields (op : Word) : encXNN (opTop op) (opX op) (opNN op) = op := by
  apply BitVec.eq_of_getLsbD_eq
  intro k hk
  simp only [encXNN, opTop, opX, opNN, regBits_ofToFin, BitVec.getLsbD_append, BitVec.getLsbD_extractLsb']
  interval_cases k <;> simp

theorem encXYN_fields (op : Word) : encXYN (opTop op) (opX op) (opY op) (opN op) = op := by
  apply BitVec.eq_of_getLsbD_eq
  intro k hk
  simp only [encXYN, opTop, opX, opY, opN, regBits_ofToFin, BitVec.getLsbD_append, BitVec.getLsbD_extractLsb']
  interval_cases k <;> simp

/-! The same with constant fields known by value, as the decoder tests them. -/

section Fields

variable {op : Word} {top n : BitVec 4} {nn : Byte}

theorem encNNN_of_top (htop : opTop op = top) : encNNN top (opNNN op) = op :=
  htop ▸ encNNN_fields op

theorem encXNN_of_top (htop : opTop op = top) : encXNN top (opX op) (opNN op) = op :=
  htop ▸ encXNN_fields op

theorem encXNN_of_top_nn (htop : opTop op = top) (hnn : opNN op = nn) : encXNN top (opX op) nn = op :=
  hnn ▸ encXNN_of_top htop

theorem encXYN_of_top (htop : opTop op = top) : encXYN top (opX op) (opY op) (opN op) = op :=
  htop ▸ encXYN_fields op

theorem encXYN_of_top_n (htop : opTop op = top) (hn : opN op = n) : encXYN top (opX op) (opY op) n = op :=
  hn ▸ encXYN_of_top htop

end Fields

/-! What a classification has to be. -/

/-- The unknown table (R67), on the fields the decoder reads. -/
def UnknownEncoding (op : Word) : Prop :=
  (opTop op = 0x5#4 ∧ opN op ≠ 0#4) ∨
  (opTop op = 0x8#4 ∧ opN op ∈ [0x8#4, 0x9#4, 0xA#4, 0xB#4, 0xC#4, 0xD#4, 0xF#4]) ∨
  (opTop op = 0x9#4 ∧ opN op ≠ 0#4) ∨
  (opTop op = 0xE#4 ∧ opNN op ∉ [0x9E#8, 0xA1#8]) ∨
  (opTop op = 0xF#4 ∧ opNN op ∉ [0x07#8, 0x0A#8, 0x15#8, 0x18#8, 0x1E#8, 0x29#8, 0x33#8, 0x55#8, 0x65#8])

/-- A right answer for a word: a well-formed instruction that encodes to it, or none for an unknown encoding. -/
def Classifies (op : Word) : Option Instr → Prop
  | some i => i.wellFormed = true ∧ encode i = op
  | none => UnknownEncoding op

/-- Family 8: the nine low nibbles of its rows, and the seven that are left (R65, R67). -/
theorem decodeAlu_classifies {op : Word} (htop : opTop op = 0x8#4) : Classifies op (decodeAlu op) := by
  unfold decodeAlu
  split
  case h_10 =>
    refine .inr (.inl ⟨htop, ?_⟩)
    simp only [imp_false] at *
    simp only [List.mem_cons, List.not_mem_nil, or_false, ← BitVec.toNat_inj, BitVec.toNat_ofNat]
    omega
  all_goals
    next hn => exact ⟨rfl, encXYN_of_top_n htop (BitVec.eq_of_toNat_eq hn)⟩

/-- Family E: its two low bytes, and the others (R65, R67). -/
theorem decodeKey_classifies {op : Word} (htop : opTop op = 0xE#4) : Classifies op (decodeKey op) := by
  unfold decodeKey
  split_ifs
  case neg => exact .inr (.inr (.inr (.inl ⟨htop, by simp [*]⟩)))
  all_goals exact ⟨rfl, encXNN_of_top_nn htop ‹_›⟩

/-- Family F: its nine low bytes, and the others (R65, R67). -/
theorem decodeMisc_classifies {op : Word} (htop : opTop op = 0xF#4) : Classifies op (decodeMisc op) := by
  unfold decodeMisc
  split_ifs
  case neg => exact .inr (.inr (.inr (.inr ⟨htop, by simp [*]⟩)))
  all_goals exact ⟨rfl, encXNN_of_top_nn htop ‹_›⟩

/-- `0NNN` other than CLS and RET is a well-formed SYS (R66, row 3). -/
theorem sys_classifies {op : Word} (htop : opTop op = 0x0#4) (hcls : op ≠ 0x00E0#16) (hret : op ≠ 0x00EE#16) :
    Classifies op (some (.sys (opNNN op))) := by
  have hop : encNNN 0x0#4 (opNNN op) = op := encNNN_of_top htop
  refine ⟨?_, hop⟩
  simp only [Instr.wellFormed, Bool.and_eq_true, decide_eq_true_eq]
  constructor <;> intro hnnn <;> rw [hnnn] at hop
  · exact hcls (hop ▸ by decide)
  · exact hret (hop ▸ by decide)

/-- The decoder is right on every word: by cases on the primary opcode, as the decoder takes them (R65). -/
theorem decodeOp_classifies (op : Word) : Classifies op (decodeOp op) := by
  unfold decodeOp
  split
  case isTrue hcls => exact ⟨rfl, hcls.symm⟩
  case isFalse hcls =>
    split
    case isTrue hret => exact ⟨rfl, hret.symm⟩
    case isFalse hret =>
      split
      case h_1 htop => exact sys_classifies (BitVec.eq_of_toNat_eq htop) hcls hret
      case h_2 htop | h_3 htop | h_11 htop | h_12 htop => exact ⟨rfl, encNNN_of_top (BitVec.eq_of_toNat_eq htop)⟩
      case h_4 htop | h_5 htop | h_7 htop | h_8 htop | h_13 htop =>
        exact ⟨rfl, encXNN_of_top (BitVec.eq_of_toNat_eq htop)⟩
      case h_14 htop => exact ⟨rfl, encXYN_of_top (BitVec.eq_of_toNat_eq htop)⟩
      case h_6 htop =>
        have htop : opTop op = 0x5#4 := BitVec.eq_of_toNat_eq htop
        split
        case isTrue hn => exact ⟨rfl, encXYN_of_top_n htop hn⟩
        case isFalse hn => exact .inl ⟨htop, hn⟩
      case h_10 htop =>
        have htop : opTop op = 0x9#4 := BitVec.eq_of_toNat_eq htop
        split
        case isTrue hn => exact ⟨rfl, encXYN_of_top_n htop hn⟩
        case isFalse hn => exact .inr (.inr (.inl ⟨htop, hn⟩))
      case h_9 htop => exact decodeAlu_classifies (BitVec.eq_of_toNat_eq htop)
      case h_15 htop => exact decodeKey_classifies (BitVec.eq_of_toNat_eq htop)
      case h_16 =>
        simp only [imp_false] at *
        have htop : (opTop op).toNat = 0xF := by omega
        exact decodeMisc_classifies (BitVec.eq_of_toNat_eq htop)

/-- Settles O3: it is what a right classification says of an instruction. -/
theorem encodeOfDecode : Obligations.EncodeOfDecode := by
  intro op i h
  have hop := decodeOp_classifies op
  rw [h] at hop
  exact hop

end Sys2Proof
end

section
/-! PROOFS, family 30_encoding.md, part 2. Decoding an encoding, the unknown table, the opcode map. -/

namespace Sys2Proof

/-! Decoding what was encoded. -/

/-- The family EncodingRow of Laws/PerInstr, over all instructions. -/
theorem encodingRow (i : Instr) : Laws.EncodingRow.Statement i := by
  cases i
  exacts [Laws.EncodingRow.cls, Laws.EncodingRow.ret, Laws.EncodingRow.sys _, Laws.EncodingRow.jp _,
    Laws.EncodingRow.call _, Laws.EncodingRow.seImm _ _, Laws.EncodingRow.sneImm _ _, Laws.EncodingRow.seReg _ _,
    Laws.EncodingRow.ldImm _ _, Laws.EncodingRow.addImm _ _, Laws.EncodingRow.ldReg _ _, Laws.EncodingRow.orReg _ _,
    Laws.EncodingRow.andReg _ _, Laws.EncodingRow.xorReg _ _, Laws.EncodingRow.addReg _ _, Laws.EncodingRow.subReg _ _,
    Laws.EncodingRow.shr _ _, Laws.EncodingRow.subnReg _ _, Laws.EncodingRow.shl _ _, Laws.EncodingRow.sneReg _ _,
    Laws.EncodingRow.ldI _, Laws.EncodingRow.jpV0 _, Laws.EncodingRow.rnd _ _, Laws.EncodingRow.drw _ _ _,
    Laws.EncodingRow.skp _, Laws.EncodingRow.sknp _, Laws.EncodingRow.ldVxDt _, Laws.EncodingRow.ldVxK _,
    Laws.EncodingRow.ldDtVx _, Laws.EncodingRow.ldStVx _, Laws.EncodingRow.addI _, Laws.EncodingRow.ldF _,
    Laws.EncodingRow.ldB _, Laws.EncodingRow.storeRegs _, Laws.EncodingRow.loadRegs _]

/-- The decoder reads back each form: past the two fixed words, which only CLS and RET encode to, it tests the constant fields the
format put in and takes the operands from the others. -/
theorem decodeOp_encode {i : Instr} (hi : i.wellFormed = true) : decodeOp (encode i) = some i := by
  obtain ⟨-, hcls, hret⟩ := encodingRow i hi
  by_cases hfixed : i = .cls ∨ i = .ret
  · obtain rfl | rfl := hfixed <;> rfl
  · obtain ⟨hne_cls, hne_ret⟩ := not_or.mp hfixed
    rw [decodeOp, if_neg (mt hcls hne_cls), if_neg (mt hret hne_ret)]
    cases i with
    | cls => exact absurd rfl hne_cls
    | ret => exact absurd rfl hne_ret
    | sys | jp | call | seImm | sneImm | seReg | ldImm | addImm | sneReg | ldI | jpV0 | rnd | drw => simp [encode]
    | ldReg | orReg | andReg | xorReg | addReg | subReg | shr | subnReg | shl => simp [encode, decodeAlu]
    | skp | sknp => simp [encode, decodeKey]
    | ldVxDt | ldVxK | ldDtVx | ldStVx | addI | ldF | ldB | storeRegs | loadRegs => simp [encode, decodeMisc]

/-- The decoder on bytes takes two of them and leaves the others (R60, R61). -/
theorem decode_bytesOfWord_append {op : Word} {i : Instr} (h : decodeOp op = some i) (rest : List Byte) :
    decode (bytesOfWord op ++ rest) = .ok (i, rest) := by
  simp only [bytesOfWord, List.cons_append, List.nil_append, decode, wordOfBytes_bytesOfWord, h]

/-- Settles O2: the two bytes are the opcode, and the opcode decodes to the instruction. -/
theorem decodeOfEncode : Obligations.DecodeOfEncode := by
  intro i rest hi
  exact decode_bytesOfWord_append (decodeOp_encode hi) rest

/-! The unknown table. -/

/-- No form encodes to an unknown word: where its primary opcode stands in the table, its other constants do not (R66, R67). -/
theorem encode_not_unknown (i : Instr) : ¬ UnknownEncoding (encode i) := by
  cases i with
  | cls | ret => unfold UnknownEncoding; decide
  | _ => simp [UnknownEncoding, encode]

/-- Settles O4: a word that decodes to none is right to do so, and one that decodes is an encoding, so not unknown. -/
theorem unknownEncodingsExactly : Obligations.UnknownEncodingsExactly := by
  intro op
  change decodeOp op = none ↔ UnknownEncoding op
  have hop := decodeOp_classifies op
  cases h : decodeOp op with
  | none =>
    rw [h] at hop
    exact iff_of_true rfl hop
  | some i =>
    rw [h] at hop
    obtain ⟨-, rfl⟩ := hop
    exact iff_of_false nofun (encode_not_unknown i)

theorem not_unknown_of_isSome {op : Word} (h : (decodeOp op).isSome = true) : ¬ UnknownEncoding op := by
  intro hop
  rw [(unknownEncodingsExactly op).mpr hop] at h
  cases h

theorem isSome_of_not_unknown {op : Word} (h : ¬ UnknownEncoding op) : (decodeOp op).isSome = true := by
  rw [Option.isSome_iff_ne_none]
  exact fun hnone => h ((unknownEncodingsExactly op).mp hnone)

/-- What the table asks about: the primary opcode and, in five families, the field that selects the form (R65). -/
theorem UnknownEncoding.of_fields_eq {op m : Word} (hop : UnknownEncoding op) (htop : opTop op = opTop m)
    (hn : opTop op ∈ [0x5#4, 0x8#4, 0x9#4] → opN op = opN m) (hnn : opTop op ∈ [0xE#4, 0xF#4] → opNN op = opNN m) :
    UnknownEncoding m := by
  obtain ⟨h5, hx⟩ | ⟨h8, hx⟩ | ⟨h9, hx⟩ | ⟨hE, hx⟩ | ⟨hF, hx⟩ := hop
  · exact .inl ⟨htop ▸ h5, hn (by simp [h5]) ▸ hx⟩
  · exact .inr (.inl ⟨htop ▸ h8, hn (by simp [h8]) ▸ hx⟩)
  · exact .inr (.inr (.inl ⟨htop ▸ h9, hn (by simp [h9]) ▸ hx⟩))
  · exact .inr (.inr (.inr (.inl ⟨htop ▸ hE, hnn (by simp [hE]) ▸ hx⟩)))
  · exact .inr (.inr (.inr (.inr ⟨htop ▸ hF, hnn (by simp [hF]) ▸ hx⟩)))

/-! The opcode map (R66). A field the mask covers with ones is the match's field. -/

section Mask

variable {op mask m : Word} (h : op &&& mask = m)

include h

theorem opTop_eq_of_mask (hmask : opTop mask = 0xF#4) : opTop op = opTop m := by
  rw [← h, opTop, opTop, BitVec.extractLsb'_and, show mask.extractLsb' 12 4 = 0xF#4 from hmask]
  exact BitVec.and_allOnes.symm

theorem opN_eq_of_mask (hmask : opN mask = 0xF#4) : opN op = opN m := by
  rw [← h, opN, opN, BitVec.extractLsb'_and, show mask.extractLsb' 0 4 = 0xF#4 from hmask]
  exact BitVec.and_allOnes.symm

theorem opNN_eq_of_mask (hmask : opNN mask = 0xFF#8) : opNN op = opNN m := by
  rw [← h, opNN, opNN, BitVec.extractLsb'_and, show mask.extractLsb' 0 8 = 0xFF#8 from hmask]
  exact BitVec.and_allOnes.symm

end Mask

theorem tableRow_mem (i : Instr) : i.tableRow ∈ opcodeRows := by
  cases i <;> simp [Instr.tableRow, opcodeRows]

/-- The match of a row is itself a recognised word. -/
theorem isSome_of_row_match : ∀ r ∈ opcodeRows, (decodeOp r.2).isSome = true :=
  List.all_eq_true.mp (by decide)

/-- The mask of a row covers the fields by which its family tells unknown words (R65, R67). -/
theorem row_mask_covers : ∀ r ∈ opcodeRows, opTop r.1 = 0xF#4 ∧
    (opTop r.2 ∈ [0x5#4, 0x8#4, 0x9#4] → opN r.1 = 0xF#4) ∧
    (opTop r.2 ∈ [0xE#4, 0xF#4] → opNN r.1 = 0xFF#8) :=
  List.all_iff_forall_prop.mp (by decide)

/-- A word that matches a row is recognised: it shares with the row's match every field the unknown table asks about. -/
theorem isSome_of_row {op : Word} {r : Word × Word} (hr : r ∈ opcodeRows) (h : op &&& r.1 = r.2) :
    (decodeOp op).isSome = true := by
  obtain ⟨hmask, hmaskN, hmaskNN⟩ := row_mask_covers r hr
  have htop := opTop_eq_of_mask h hmask
  refine isSome_of_not_unknown fun hop => not_unknown_of_isSome (isSome_of_row_match r hr) (hop.of_fields_eq htop ?_ ?_)
  · exact fun hmem => opN_eq_of_mask h (hmaskN (htop ▸ hmem))
  · exact fun hmem => opNN_eq_of_mask h (hmaskNN (htop ▸ hmem))

/-- Two rows that agree where both masks look are CLS's or RET's and a later one (R66: rows 1 and 2 lie in row 3). -/
theorem opcodeRows_agree : opcodeRows.Pairwise fun r q => r.2 &&& q.1 = q.2 &&& r.1 →
    r.1 = 0xFFFF#16 ∧ r.2 ∈ [0x00E0#16, 0x00EE#16] := by decide

theorem fixed_of_two_rows (op : Word) : opcodeRows.Pairwise fun r q => op &&& r.1 = r.2 → op &&& q.1 = q.2 →
    op = 0x00E0#16 ∨ op = 0x00EE#16 := by
  refine opcodeRows_agree.imp fun {r q} hagree hr hq => ?_
  obtain ⟨hmask, hword⟩ := hagree (by rw [← hr, ← hq, BitVec.and_assoc, BitVec.and_assoc, BitVec.and_comm r.1])
  have hop : op = r.2 := by
    rw [← hr, hmask]
    exact BitVec.and_allOnes.symm
  simpa [hop] using hword

/-- Settles O5: a recognised word is an encoding and so matches its form's row; the other two clauses are `isSome_of_row` and
`fixed_of_two_rows`. -/
theorem decoderMatchesOpcodeMap : Obligations.DecoderMatchesOpcodeMap := by
  have hform : ∀ (op : Word) (i : Instr), decodeOp op = some i →
      i.tableRow ∈ opcodeRows ∧ op &&& i.tableRow.1 = i.tableRow.2 := by
    intro op i h
    obtain ⟨hi, rfl⟩ := encodeOfDecode op i h
    exact ⟨tableRow_mem i, (encodingRow i hi).1⟩
  refine ⟨fun op => ⟨fun h => ?_, fun ⟨r, hr, h⟩ => isSome_of_row hr h⟩, hform, fun op r q hr hq hop_r hop_q => ?_⟩
  · obtain ⟨i, hi⟩ := Option.isSome_iff_exists.mp h
    exact ⟨i.tableRow, hform op i hi⟩
  · rw [or_iff_not_imp_left]
    exact fun hne => @List.Pairwise.forall _ _ _ ⟨fun _ _ h k l => h l k⟩ (fixed_of_two_rows op) r hr q hq hne hop_r hop_q

/-- Settles O1: the decoder runs on each word and on the three bytes. -/
theorem specWordsDecode : Obligations.SpecWordsDecode := by
  unfold Obligations.SpecWordsDecode
  decide

end Sys2Proof
end

section
/-! PROOFS, family 40_step_cycle.md, part 1. A STEP as fetch, phase 3 and tick: what it is when the fetch succeeds,
what the tick adds, and what the host gets. -/

namespace Sys2Proof.Machine

/-! Fetch and decode (R81, R83). -/

theorem fetch_of_le {s : State} (hpc : s.pc.toNat ≤ 0xFFE) : fetch s = .ok (opcodeAt s) := by
  obtain ⟨hlt, -⟩ | ⟨-, hf⟩ := fetch_cases s
  · omega
  · exact hf

/-- Where the fetch succeeds, a STEP is phase 3 of the opcode at `pc`, from cleared outputs, and then the tick. -/
theorem step_of_le {s : State} (hpc : s.pc.toNat ≤ 0xFFE) :
    step s = thenTick (execWord (opcodeAt s) (clearOutputs s)) := by
  simp only [step, fetch_of_le hpc]

theorem execWord_of_some {op : Word} {i : Instr} (h : decodeOp op = some i) (s : State) : execWord op s = exec i s := by
  simp only [execWord, h]

theorem execWord_of_none {op : Word} (h : decodeOp op = none) (s : State) :
    execWord op s = .next (advance (report s op)) := by
  simp only [execWord, h, execUnknown]

/-- On two bytes the decoder of bytes is the decoder of the word they spell (R61). -/
theorem decodeOp_of_decode_pair {hi lo : Byte} {i : Instr} {rest : List Byte} (h : decode [hi, lo] = .ok (i, rest)) :
    decodeOp (wordOfBytes hi lo) = some i := by
  cases hop : decodeOp (wordOfBytes hi lo) with
  | none =>
    simp only [decode, hop] at h
    cases h
  | some j =>
    simp only [decode, hop] at h
    cases h
    rfl

/-- Settles O6: the two bytes at `pc` spell the opcode the STEP fetches. -/
theorem stepRunsDecodedInstruction : Obligations.StepRunsDecodedInstruction := by
  intro s i hpc hdecode
  have hop : decodeOp (opcodeAt s) = some i := decodeOp_of_decode_pair hdecode
  rw [step_of_le hpc, execWord_of_some hop]

/-! The tick (R88, R89). -/

theorem kept_trans {p : Part} {s t u : State} (hst : kept p s t) (htu : kept p t u) : kept p s u := by
  cases p with
  | memory => exact fun a => (htu a).trans (hst a)
  | report => exact ⟨htu.1.trans hst.1, htu.2.trans hst.2⟩
  | index | stack | sp | dt | st | screen | redraw | keys | draws | config => exact Eq.trans htu hst

theorem keepsAllBut_refl (ps : List Part) (s : State) : keepsAllBut ps s s := by
  simp [keepsAllBut_iff]

theorem tick_keepsAllBut (s : State) : keepsAllBut [.dt, .st, .report] s (tick s) := by
  simp [keepsAllBut_iff]

theorem clearOutputs_keepsAllBut (s : State) : keepsAllBut [.report] s (clearOutputs s) := by
  simp [keepsAllBut_iff]

/-- `t` is what the tick makes of a state that has the parts and registers of `s`, up to the outputs: the shape shared by the
tick itself and by the STEPs that do nothing else to these. -/
structure TickedFrom (s t : State) : Prop where
  dt : t.dt.toNat = s.dt.toNat - 1
  st : t.st.toNat = s.st.toNat - 1
  trigger : t.soundTrigger = true ↔ s.st.toNat = 1
  parts : keepsAllBut [.dt, .st, .report] s t
  regs : regsKeptBut [] s t

theorem tickedFrom_tick {s u : State} (hparts : keepsAllBut [.report] s u) (hregs : regsKeptBut [] s u) :
    TickedFrom s (tick u) where
  dt := by
    have hdt : u.dt = s.dt := hparts .dt (by simp)
    rw [tick_dt, countDown_toNat, hdt]
  st := by
    have hst : u.st = s.st := hparts .st (by simp)
    rw [tick_st, countDown_toNat, hst]
  trigger := by
    have hst : u.st = s.st := hparts .st (by simp)
    rw [tick_soundTrigger_iff, hst]
  parts p hp :=
    have hreport : p ∉ [.report] := fun h => hp (List.mem_cons_of_mem _ (List.mem_cons_of_mem _ h))
    kept_trans (hparts p hreport) (tick_keepsAllBut u p hp)
  regs := hregs

/-- Settles O8: the tick of the state phase 3 leaves. -/
theorem tickAfterPhaseThree : Obligations.TickAfterPhaseThree := by
  intro u
  obtain ⟨hdt, hst, htrigger, hparts, hregs⟩ := tickedFrom_tick (keepsAllBut_refl _ u) fun _ _ => rfl
  exact ⟨tick u, rfl, hdt, hst, htrigger, rfl, rfl, hparts, hregs⟩

/-- Settles O7: phase 3 of an unknown opcode reports and advances. -/
theorem unknownOpcodeIsReportedNop : Obligations.UnknownOpcodeIsReportedNop := by
  intro s hpc hop
  have hstep := step_of_le hpc
  rw [execWord_of_none hop] at hstep
  have hframe : keepsAllBut [.report] s (advance (report (clearOutputs s) (opcodeAt s))) := fun p hp =>
    kept_trans (clearOutputs_keepsAllBut s p hp) (report_keepsAllBut _ _ p hp)
  obtain ⟨hdt, hst, htrigger, hparts, hregs⟩ := tickedFrom_tick hframe fun _ _ => rfl
  exact ⟨_, hstep, rfl, rfl, hdt, hst, htrigger, hparts, hregs⟩

theorem exec_ldVxK_of_no_key {s : State} (h : ∀ k : Fin 16, keyDown s k = false) (x : RegNum) :
    exec (.ldVxK x) s = .next s := by
  simp only [exec, execLdVxK, lowestKey_eq_none.mpr h]

/-- Settles O48: phase 3 of a blocked wait leaves the state it started from, `pc` included. -/
theorem blockedKeyWaitStep : Obligations.BlockedKeyWaitStep := by
  intro x s hpc hop hkeys
  have hstep := step_of_le hpc
  rw [execWord_of_some hop, exec_ldVxK_of_no_key (s := clearOutputs s) hkeys] at hstep
  obtain ⟨hdt, hst, htrigger, hparts, hregs⟩ := tickedFrom_tick (clearOutputs_keepsAllBut s) fun _ _ => rfl
  exact ⟨_, hstep, rfl, hdt, hst, rfl, htrigger, hparts, hregs⟩

/-! The result of a STEP (R87, R90, R200). -/

/-- The form that reports is SYS, and it reports its own opcode (R110). -/
theorem exec_reports {i : Instr} {s t : State} (h : exec i s = .next t) :
    (∃ nnn, i = .sys nnn ∧ t.unknownOpcode = some (encode i)) ∨
      ((∀ nnn, i ≠ .sys nnn) ∧ t.unknownOpcode = s.unknownOpcode) := by
  by_cases hi : ∃ nnn, i = .sys nnn
  · obtain ⟨nnn, rfl⟩ := hi
    cases h
    exact .inl ⟨nnn, rfl, rfl⟩
  · have hp : .report ∉ writtenParts i := by
      cases i <;> simp [writtenParts] at hi ⊢
    exact .inr ⟨not_exists.mp hi, (exec_keepsAllBut h .report hp).1⟩

/-- Settles O10: the outputs are clear when phase 3 begins, and a recognised word is the encoding of the SYS that reports it. -/
theorem diagnosticExactly : Obligations.DiagnosticExactly := by
  intro s t h
  obtain ⟨-, u, hexec, rfl⟩ := step_next h
  rw [tick_unknownOpcode]
  obtain ⟨i, hop, hexec⟩ | ⟨hop, rfl⟩ := execWord_next hexec
  · obtain ⟨nnn, rfl, hreport⟩ | ⟨hi, hreport⟩ := exec_reports hexec
    · obtain ⟨-, hencode⟩ := encodeOfDecode _ _ hop
      rw [if_pos (.inr ⟨nnn, hop⟩), hreport, hencode]
    · rw [if_neg, hreport, clearOutputs_unknownOpcode]
      simp [hop, hi]
  · rw [if_pos (.inl hop)]
    rfl

/-- Settles O55: the state after the transaction and its record both follow the outcome of the STEP. -/
theorem stepTransactionResult : Obligations.StepTransactionResult := by
  intro s
  constructor
  · intro t h
    simp only [transact, hostStep, stepResult, h]
  · intro f h
    simp only [transact, hostStep, stepResult, h]

end Sys2Proof.Machine
end

section
/-! PROOFS, family 40_step_cycle.md, part 2. The random source (R94, R153): phase 3 of every form but RND ends alike under any
count of draws. -/

namespace Sys2Proof.Machine

/-- The state with another count of draws (log 2). -/
def withDraws (s : State) (d : Nat) : State := { s with draws := d }

/-- Two results that end alike up to the count of draws, which is `d` in the second: both complete, or both with one fault. -/
def EndsAlike (d : Nat) (r q : Result) : Prop :=
  (∃ t, r = .next t ∧ q = .next (withDraws t d)) ∨ ∃ f, r = .fault f ∧ q = .fault f

theorem endsAlike_next (d : Nat) (t : State) : EndsAlike d (.next t) (.next (withDraws t d)) := .inl ⟨t, rfl, rfl⟩

theorem endsAlike_fault (d : Nat) (f : Fault) : EndsAlike d (.fault f) (.fault f) := .inr ⟨f, rfl, rfl⟩

theorem endsAlike_thenTick {d : Nat} {r q : Result} (h : EndsAlike d r q) : EndsAlike d (thenTick r) (thenTick q) := by
  obtain ⟨t, rfl, rfl⟩ | ⟨f, rfl, rfl⟩ := h
  · exact endsAlike_next d (tick t)
  · exact endsAlike_fault d f

theorem indexedAccess_endsAlike (d count : Nat) (s t : State) :
    EndsAlike d (indexedAccess s count t) (indexedAccess (withDraws s d) count (withDraws t d)) := by
  by_cases h : count = 0 ∨ inRange s count
  · rw [indexedAccess_of_inRange h, indexedAccess_of_inRange (s := withDraws s d) h]
    exact endsAlike_next d t
  · obtain ⟨hc, hr⟩ := not_or.mp h
    rw [indexedAccess_of_not_inRange hc hr, indexedAccess_of_not_inRange (s := withDraws s d) hc hr]
    exact endsAlike_fault d _

theorem pop_withDraws (s : State) (d : Nat) :
    pop (withDraws s d) = (pop s).map fun r => (r.1, withDraws r.2 d) := by
  by_cases h : 0 < s.sp.val <;> simp [pop, withDraws, h]

theorem push_withDraws (s : State) (a : Word) (d : Nat) : push (withDraws s d) a = (push s a).map (withDraws · d) := by
  by_cases h : s.sp.val < 16 <;> simp [push, withDraws, h]

theorem execRet_endsAlike (d : Nat) (s : State) : EndsAlike d (execRet s) (execRet (withDraws s d)) := by
  unfold execRet
  rw [pop_withDraws]
  cases pop s with
  | none => exact endsAlike_fault d _
  | some r => exact endsAlike_next d _

theorem execCall_endsAlike (d : Nat) (nnn : BitVec 12) (s : State) :
    EndsAlike d (execCall nnn s) (execCall nnn (withDraws s d)) := by
  have hpush : push (withDraws s d) ((withDraws s d).pc + 2#16) = _ := push_withDraws s (s.pc + 2#16) d
  unfold execCall
  rw [hpush]
  cases push s (s.pc + 2#16) with
  | none => exact endsAlike_fault d _
  | some t => exact endsAlike_next d _

theorem execSkp_endsAlike (d : Nat) (x : RegNum) (s : State) :
    EndsAlike d (execSkp x s) (execSkp x (withDraws s d)) := by
  have hkey : keyOperand (withDraws s d) x = keyOperand s x := rfl
  unfold execSkp
  rw [hkey]
  cases keyOperand s x with
  | ok k => exact endsAlike_next d _
  | error f => exact endsAlike_fault d f

theorem execSknp_endsAlike (d : Nat) (x : RegNum) (s : State) :
    EndsAlike d (execSknp x s) (execSknp x (withDraws s d)) := by
  have hkey : keyOperand (withDraws s d) x = keyOperand s x := rfl
  unfold execSknp
  rw [hkey]
  cases keyOperand s x with
  | ok k => exact endsAlike_next d _
  | error f => exact endsAlike_fault d f

theorem execLdVxK_endsAlike (d : Nat) (x : RegNum) (s : State) :
    EndsAlike d (execLdVxK x s) (execLdVxK x (withDraws s d)) := by
  have hkey : lowestKey (withDraws s d) = lowestKey s := rfl
  unfold execLdVxK
  rw [hkey]
  cases lowestKey s with
  | none => exact endsAlike_next d s
  | some k => exact endsAlike_next d _

/-- Phase 3 of a form other than RND does not see the count of draws. The last group is the forms that always complete. -/
theorem exec_endsAlike {i : Instr} (hi : ∀ x nn, i ≠ .rnd x nn) (d : Nat) (s : State) :
    EndsAlike d (exec i s) (exec i (withDraws s d)) := by
  cases i with
  | rnd x nn => exact absurd rfl (hi x nn)
  | ret => exact execRet_endsAlike d s
  | call nnn => exact execCall_endsAlike d nnn s
  | skp x => exact execSkp_endsAlike d x s
  | sknp x => exact execSknp_endsAlike d x s
  | ldVxK x => exact execLdVxK_endsAlike d x s
  | ldB | storeRegs | loadRegs | drw => exact indexedAccess_endsAlike d _ s _
  | cls | sys | jp | jpV0 | seImm | sneImm | seReg | sneReg | ldImm | addImm | ldReg | orReg | andReg | xorReg | addReg
  | subReg | shr | subnReg | shl | ldI | addI | ldF | ldVxDt | ldDtVx | ldStVx => exact endsAlike_next d _

theorem execWord_endsAlike {op : Word} (hop : ∀ x nn, decodeOp op ≠ some (.rnd x nn)) (d : Nat) (s : State) :
    EndsAlike d (execWord op s) (execWord op (withDraws s d)) := by
  cases h : decodeOp op with
  | none =>
    rw [execWord_of_none h, execWord_of_none h]
    exact endsAlike_next d _
  | some i =>
    rw [execWord_of_some h, execWord_of_some h]
    exact exec_endsAlike (fun x nn e => hop x nn (e ▸ h)) d s

/-- The fetch does not see the count of draws, and phase 3 starts from it unchanged. -/
theorem step_endsAlike {s : State} (hop : ∀ x nn, decodeOp (opcodeAt s) ≠ some (.rnd x nn)) (d : Nat) :
    EndsAlike d (step s) (step (withDraws s d)) := by
  have hfetch : fetch (withDraws s d) = fetch s := rfl
  have hclear : clearOutputs (withDraws s d) = withDraws (clearOutputs s) d := rfl
  unfold step
  rw [hfetch, hclear]
  obtain ⟨-, hf⟩ | ⟨-, hf⟩ := fetch_cases s <;> rw [hf]
  · exact endsAlike_fault d _
  · exact endsAlike_thenTick (execWord_endsAlike hop d _)

theorem draws_written_by_rnd (i : Instr) (h : .draws ∈ writtenParts i) : ∃ x nn, i = .rnd x nn := by
  cases i <;> simp [writtenParts] at h ⊢

/-- A STEP on another opcode than RND draws no byte. -/
theorem step_keeps_draws {s t : State} (hop : ∀ x nn, decodeOp (opcodeAt s) ≠ some (.rnd x nn)) (h : step s = .next t) :
    t.draws = s.draws := by
  obtain ⟨-, u, hexec, rfl⟩ := step_next h
  obtain ⟨i, hi, hexec⟩ | ⟨-, rfl⟩ := execWord_next hexec
  · refine exec_keepsAllBut hexec .draws fun hw => ?_
    obtain ⟨x, nn, rfl⟩ := draws_written_by_rnd i hw
    exact hop x nn hi
  · rfl

/-- Settles O13: the STEP ends alike under the other count, and keeps its own. -/
theorem randomByteOnlyInRnd : Obligations.RandomByteOnlyInRnd := by
  intro s d hop
  obtain ⟨t, ht, ht'⟩ | ⟨f, hf, hf'⟩ := step_endsAlike hop d
  · exact .inl ⟨t, ht, step_keeps_draws hop ht, ht'⟩
  · exact .inr ⟨f, hf, hf'⟩

end Sys2Proof.Machine
end

section
/-! PROOFS, family 41_control_flow.md. What each control-flow form answers, as one equation per outcome; the frames are those of the
tables of written parts and registers. -/

namespace Sys2Proof.Machine

theorem keepsAllBut_mono {ps qs : List Part} {s t : State} (hsub : ps ⊆ qs) (h : keepsAllBut ps s t) : keepsAllBut qs s t :=
  fun p hp => h p fun hmem => hp (hsub hmem)

/-! RET and CALL (R102, R104). -/

theorem exec_ret_of_live {s : State} {k : Fin 16} (hk : s.sp.val = k.val + 1) :
    exec .ret s = .next (jumpTo { s with sp := k.castSucc } (s.stack.get k)) := by
  obtain ⟨j, q, hj, hq, hpop⟩ | ⟨hempty, -⟩ := pop_cases s
  · obtain rfl : j = k := Fin.ext (by omega)
    obtain rfl : q = j.castSucc := Fin.ext hq
    simp only [exec, execRet, hpop]
  · omega

theorem exec_ret_of_empty {s : State} (h : s.sp.val = 0) : exec .ret s = .fault (.stackUnderflow s.pc) := by
  obtain ⟨k, -, hk, -, -⟩ | ⟨-, hpop⟩ := pop_cases s
  · omega
  · simp only [exec, execRet, hpop, raise]

theorem exec_call_of_free {s : State} {k : Fin 16} (hk : s.sp.val = k.val) (nnn : BitVec 12) :
    exec (.call nnn) s =
      .next (jumpTo { s with stack := s.stack.set k.val (s.pc + 2#16) k.isLt, sp := k.succ } (addrImm nnn)) := by
  obtain ⟨hlt, q, hq, hpush⟩ | ⟨hfull, -⟩ := push_cases s (s.pc + 2#16)
  · obtain rfl : k = ⟨s.sp.val, hlt⟩ := Fin.ext hk.symm
    obtain rfl : q = Fin.succ ⟨s.sp.val, hlt⟩ := Fin.ext hq
    simp only [exec, execCall, hpush]
  · omega

theorem exec_call_of_full {s : State} (h : s.sp.val = 16) (nnn : BitVec 12) :
    exec (.call nnn) s = .fault (.stackOverflow s.pc) := by
  obtain ⟨hlt, -⟩ | ⟨-, hpush⟩ := push_cases s (s.pc + 2#16)
  · omega
  · simp only [exec, execCall, hpush, raise]

/-- Settles O17: one equation per outcome of the pop, the frame from the table. -/
theorem retPopsOrFaults : Obligations.RetPopsOrFaults := by
  intro s
  refine ⟨fun k hk => ?_, exec_ret_of_empty⟩
  have h := exec_ret_of_live hk
  exact ⟨_, h, rfl, rfl, exec_keepsAllBut h, exec_regsKeptBut h⟩

/-- Settles O18: one equation per outcome of the push; the slot at the old `SP` is the one that is set. -/
theorem callPushesOrFaults : Obligations.CallPushesOrFaults := by
  intro nnn s
  refine ⟨fun k hk => ?_, fun hfull => exec_call_of_full hfull nnn⟩
  have h := exec_call_of_free hk nnn
  refine ⟨_, h, addrImm_toNat nnn, rfl, ?_, fun j hj => ?_, ?_, exec_regsKeptBut h⟩
  · simp [Vector.get_eq_getElem]
  · have hne : k.val ≠ j.val := fun e => hj (Fin.ext e.symm)
    simp [Vector.get_eq_getElem, Vector.getElem_set_ne, hne]
  · exact keepsAllBut_mono (by simp [writtenParts]) (exec_keepsAllBut h)

/-- Settles O19: the CALL makes the slot at the old `SP` the top of the stack (O18), and the RET takes it from there (O17); only `SP`
moves in both, up and down again. -/
theorem callThenRetRoundTrip : Obligations.CallThenRetRoundTrip := by
  intro nnn s hlt
  obtain ⟨t, hcall, -, htsp, htop, -, htparts, htregs⟩ := (callPushesOrFaults nnn s).1 ⟨s.sp.val, hlt⟩ rfl
  obtain ⟨u, hret, hupc, husp, huparts, huregs⟩ := (retPopsOrFaults t).1 ⟨s.sp.val, hlt⟩ htsp
  refine ⟨t, u, hcall, hret, hupc.trans htop, fun p hp => ?_, fun r hr => (huregs r hr).trans (htregs r hr)⟩
  by_cases hsp : p = .sp
  · subst hsp
    exact Fin.ext husp
  · exact kept_trans (htparts p (by simpa [hsp] using hp)) (huparts p (by simpa using hsp))

/-! CLS and SYS (R101, R110). -/

/-- Settles O16: every bit of the cleared framebuffer is 0. -/
theorem clsClearsScreen : Obligations.ClsClearsScreen := by
  intro s
  have h : exec .cls s = .next (advance { s with fb := 0#2048, needsRedraw := true }) := rfl
  refine ⟨_, h, fun px py _ _ => ?_, rfl, rfl, exec_keepsAllBut h, exec_regsKeptBut h⟩
  simp [pixel]

theorem encNNN_zero_toNat (nnn : BitVec 12) : (encNNN 0x0#4 nnn).toNat = nnn.toNat :=
  (BitVec.toNat_append 0x0#4 nnn).trans (by simp)

/-- Settles O20: the opcode SYS reports is its own encoding, whose top nibble is 0. -/
theorem sysIsReportedNop : Obligations.SysIsReportedNop := by
  intro nnn s
  have h : exec (.sys nnn) s = .next (advance (report s (encNNN 0x0#4 nnn))) := rfl
  exact ⟨_, _, h, rfl, encNNN_zero_toNat nnn, rfl, rfl, exec_keepsAllBut h, exec_regsKeptBut h⟩

/-! JP and JP V0 (R103, R109). -/

theorem exec_jp (nnn : BitVec 12) (s : State) : exec (.jp nnn) s = .next (jumpTo s (addrImm nnn)) := rfl

/-- Settles O21: the target is the immediate, zero-extended. -/
theorem jpSetsPc : Obligations.JpSetsPc := by
  intro nnn s
  have h := exec_jp nnn s
  exact ⟨_, h, addrImm_toNat nnn, exec_keepsAllBut h, exec_regsKeptBut h⟩

/-- A 12-bit address plus a byte does not wrap at 16 bits (R18). -/
theorem addrImm_add_byteWord_toNat (nnn : BitVec 12) (b : Byte) :
    (addrImm nnn + byteWord b).toNat = nnn.toNat + b.toNat := by
  have hnnn := nnn.isLt
  have hb := b.isLt
  rw [BitVec.toNat_add, addrImm_toNat, byteWord_toNat]
  omega

/-- Settles O22: the 16-bit sum is the natural one. -/
theorem jpV0AddsOffset : Obligations.JpV0AddsOffset := by
  intro nnn s
  have h : exec (.jpV0 nnn) s = .next (jumpTo s (addrImm nnn + byteWord (readV s reg0))) := rfl
  exact ⟨_, h, addrImm_add_byteWord_toNat nnn _, exec_keepsAllBut h, exec_regsKeptBut h⟩

/-- A state at the target of a jump is where the jump leaves it. -/
theorem jumpTo_self {s : State} {target : Word} (h : s.pc = target) : jumpTo s target = s := by
  subst h
  rfl

theorem exec_jp_self {nnn : BitVec 12} {s : State} (h : s.pc.toNat = nnn.toNat) : exec (.jp nnn) s = .next s := by
  have hpc : s.pc = addrImm nnn := BitVec.eq_of_toNat_eq (h.trans (addrImm_toNat nnn).symm)
  rw [exec_jp, jumpTo_self hpc]

theorem tick_sameCore {s : State} (hdt : s.dt = 0#8) (hst : s.st = 0#8) : sameCore s (tick s) := by
  simp [sameCore, countDown, hdt, hst]

/-- Settles O58: phase 3 leaves the state it started from, so the STEP is the tick from cleared outputs, and timers at 0 stay. -/
theorem jumpToSelfIsFixedPoint : Obligations.JumpToSelfIsFixedPoint := by
  intro nnn s hop hself hpc
  have hstep := step_of_le hpc
  rw [execWord_of_some hop, exec_jp_self (s := clearOutputs s) hself] at hstep
  obtain ⟨hdt, hst, -, hparts, hregs⟩ := tickedFrom_tick (clearOutputs_keepsAllBut s) fun _ _ => rfl
  exact ⟨_, hstep, rfl, hdt, hst, hparts, hregs, tick_sameCore (s := clearOutputs s)⟩

/-! The skips (R105 to R108). -/

theorem skipIf_keepsAllBut (s : State) (c : Bool) : keepsAllBut [] s (skipIf s c) := by
  simp [keepsAllBut_iff]

/-- A form whose phase 3 is a skip on `p`: where it goes, and that it does nothing else. -/
theorem exec_skips {i : Instr} {s : State} {p : Prop} [Decidable p] (h : exec i s = .next (skipIf s (decide p))) :
    ∃ t, exec i s = .next t ∧ t.pc = (if p then s.pc + 4#16 else s.pc + 2#16) ∧ keepsAllBut [] s t ∧ regsKeptBut [] s t :=
  ⟨_, h, by simp only [skipIf_pc, decide_eq_true_eq], skipIf_keepsAllBut s _, fun _ _ => rfl⟩

/-- The same for a skip on `¬ p`. -/
theorem exec_skips_unless {i : Instr} {s : State} {p : Prop} [Decidable p] (h : exec i s = .next (skipIf s (decide ¬p))) :
    ∃ t, exec i s = .next t ∧ t.pc = (if p then s.pc + 2#16 else s.pc + 4#16) ∧ keepsAllBut [] s t ∧ regsKeptBut [] s t := by
  simpa only [ite_not] using exec_skips h

/-- Settles O23: SE skips on equality and SNE on its negation. -/
theorem skipOnImmediate : Obligations.SkipOnImmediate :=
  fun _ _ _ => ⟨exec_skips rfl, exec_skips_unless rfl⟩

/-- Settles O24: as O23, with a register for the immediate. -/
theorem skipOnRegisters : Obligations.SkipOnRegisters :=
  fun _ _ _ => ⟨exec_skips rfl, exec_skips_unless rfl⟩

end Sys2Proof.Machine
end

section
/-! PROOFS, family 42_register_immediate.md. A form that only writes one register and advances, said once for all of them. -/

namespace Sys2Proof.Machine

theorem advance_writeV_keepsAllBut (s : State) (x : RegNum) (b : Byte) : keepsAllBut [] s (advance (writeV s x b)) := by
  simp [keepsAllBut_iff]

theorem advance_writeV_regsKeptBut (s : State) (x : RegNum) (b : Byte) : regsKeptBut [x] s (advance (writeV s x b)) :=
  fun r hr => readV_writeV_ne s x r b (mt List.mem_singleton.mpr hr)

/-- A form whose phase 3 puts `b` into `V[x]` and advances: what it leaves there, and that it does nothing else. -/
theorem exec_writes {i : Instr} {s : State} {x : RegNum} {b : Byte} (h : exec i s = .next (advance (writeV s x b))) :
    ∃ t, exec i s = .next t ∧ readV t x = b ∧ t.pc = s.pc + 2#16 ∧ keepsAllBut [] s t ∧ regsKeptBut [x] s t :=
  ⟨_, h, readV_writeV_same s x b, rfl, advance_writeV_keepsAllBut s x b, advance_writeV_regsKeptBut s x b⟩

/-- Settles O25: both loads write the one register, with the immediate or the old `V[y]`. -/
theorem registerLoads : Obligations.RegisterLoads :=
  fun _ _ _ _ => ⟨exec_writes rfl, exec_writes rfl⟩

/-- Settles O26: the register gets the 8-bit sum, which is the natural one modulo 256 (R121). -/
theorem addImmWraps : Obligations.AddImmWraps := by
  intro x nn s
  obtain ⟨t, hexec, hx, hframe⟩ := exec_writes (i := .addImm x nn) (s := s) rfl
  have hsum : (readV t x).toNat = ((readV s x).toNat + nn.toNat) % 256 := by rw [hx, BitVec.toNat_add]
  exact ⟨t, hexec, hsum, hframe⟩

end Sys2Proof.Machine
end

section
/-! PROOFS, family 43_alu.md. The logic forms are register writes. The five flag writers share one end, `flagThenResult`: what it
leaves is said once (R130), and the result and the flag of each form are read as numbers. -/

namespace Sys2Proof.Machine

/-! OR, AND, XOR (R132 to R134). -/

/-- Settles O27: each form writes the one register, and bit `k` of what it writes is the operation on the two bits `k`. -/
theorem logicCombinesBits : Obligations.LogicCombinesBits := by
  intro x y s
  refine ⟨?_, ?_, ?_⟩
  · obtain ⟨t, hexec, hx, hframe⟩ := exec_writes (i := .orReg x y) (s := s) rfl
    exact ⟨t, hexec, fun k => by rw [hx, BitVec.getLsbD_or], hframe⟩
  · obtain ⟨t, hexec, hx, hframe⟩ := exec_writes (i := .andReg x y) (s := s) rfl
    exact ⟨t, hexec, fun k => by rw [hx, BitVec.getLsbD_and], hframe⟩
  · obtain ⟨t, hexec, hx, hframe⟩ := exec_writes (i := .xorReg x y) (s := s) rfl
    exact ⟨t, hexec, fun k => by rw [hx, BitVec.getLsbD_xor], hframe⟩

/-! The end of the flag writers (R130). -/

section FlagThenResult

variable (s : State) (x : RegNum) (flag result : Byte)

/-- The result lands last, so `V[x]` holds it for every `x`, 15 too. -/
@[simp] theorem readV_flagThenResult_same : readV (flagThenResult s x flag result) x = result :=
  readV_writeV_same (writeV s regF flag) x result

/-- The flag stays unless the result replaces it. -/
theorem readV_flagThenResult_regF {x : RegNum} (hx : x ≠ regF) : readV (flagThenResult s x flag result) regF = flag :=
  (readV_writeV_ne (writeV s regF flag) x regF result hx.symm).trans (readV_writeV_same s regF flag)

theorem flagThenResult_keepsAllBut : keepsAllBut [] s (flagThenResult s x flag result) :=
  advance_writeV_keepsAllBut (writeV s regF flag) x result

theorem flagThenResult_regsKeptBut : regsKeptBut [x, regF] s (flagThenResult s x flag result) := by
  intro r hr
  obtain ⟨hx, hF⟩ : r ≠ x ∧ r ≠ regF := by simpa using hr
  exact (readV_writeV_ne (writeV s regF flag) x r result hx).trans (readV_writeV_ne s regF r flag hF)

end FlagThenResult

/-- A form that ends in `flagThenResult`, with its result and its flag as the numbers `m` and `n`: what it leaves in `V[x]` and in
VF, and that it does nothing else. -/
theorem exec_flags {i : Instr} {s : State} {x : RegNum} {flag result : Byte} {m n : Nat}
    (h : exec i s = .next (flagThenResult s x flag result)) (hresult : result.toNat = m) (hflag : flag.toNat = n) :
    ∃ t, exec i s = .next t ∧ (readV t x).toNat = m ∧ (x ≠ 15 → (readV t 15).toNat = n) ∧ t.pc = s.pc + 2#16 ∧
      keepsAllBut [] s t ∧ regsKeptBut [x, 15] s t := by
  refine ⟨_, h, ?_, fun hx => ?_, rfl, flagThenResult_keepsAllBut s x flag result, flagThenResult_regsKeptBut s x flag result⟩
  · rw [readV_flagThenResult_same, hresult]
  · exact (congrArg BitVec.toNat (readV_flagThenResult_regF s flag result hx)).trans hflag

/-! ADD (R135). -/

/-- Settles O28: the 8-bit sum is the natural one modulo 256, and the carry compares the natural one. -/
theorem addRegSumAndCarry : Obligations.AddRegSumAndCarry :=
  fun _ _ _ => exec_flags rfl (BitVec.toNat_add _ _) (carryFlag_toNat _ _)

/-! SUB and SUBN (R136, R138). -/

/-- The 8-bit difference is the integer one modulo 256. -/
theorem byte_sub_toNat_cast (a b : Byte) : ((a - b).toNat : Int) = ((a.toNat : Int) - b.toNat) % 256 := by
  have hb := b.isLt
  rw [BitVec.toNat_sub]
  omega

/-- A form that subtracts `b` from `a` into `V[x]`, with the no-borrow flag of the two. -/
theorem exec_subtracts {i : Instr} {s : State} {x : RegNum} {a b : Byte}
    (h : exec i s = .next (flagThenResult s x (noBorrowFlag a b) (a - b))) :
    ∃ t, exec i s = .next t ∧ ((readV t x).toNat : Int) = ((a.toNat : Int) - b.toNat) % 256 ∧
      (x ≠ 15 → (readV t 15).toNat = if a.toNat ≥ b.toNat then 1 else 0) ∧ t.pc = s.pc + 2#16 ∧
      keepsAllBut [] s t ∧ regsKeptBut [x, 15] s t := by
  obtain ⟨t, hexec, hx, hframe⟩ := exec_flags h rfl (noBorrowFlag_toNat a b)
  exact ⟨t, hexec, by rw [hx, byte_sub_toNat_cast], hframe⟩

/-- Settles O29: SUBN is SUB with the operands exchanged. -/
theorem subtractAndNoBorrow : Obligations.SubtractAndNoBorrow :=
  fun _ _ _ => ⟨exec_subtracts rfl, exec_subtracts rfl⟩

/-! SHR and SHL (R137, R139). -/

theorem byte_shiftRight_one_toNat (a : Byte) : (a >>> 1).toNat = a.toNat / 2 := by
  rw [BitVec.toNat_ushiftRight, Nat.shiftRight_one]

theorem byte_shiftLeft_one_toNat (a : Byte) : (a <<< 1).toNat = a.toNat * 2 % 256 := by
  rw [BitVec.toNat_shiftLeft, Nat.shiftLeft_eq]

theorem lowBitFlag_toNat (a : Byte) : (lowBitFlag a).toNat = a.toNat % 2 := by
  rw [lowBitFlag, flagByte_toNat, BitVec.getLsbD, Nat.testBit_zero]
  simp only [decide_eq_true_eq]
  split <;> omega

theorem highBitFlag_toNat (a : Byte) : (highBitFlag a).toNat = a.toNat / 128 := by
  have ha := a.isLt
  rw [highBitFlag, flagByte_toNat, BitVec.getLsbD, Nat.testBit_eq_decide_div_mod_eq]
  simp only [decide_eq_true_eq]
  split <;> omega

/-- Settles O30: a shift by one halves or doubles, and the bit it shifts out is the remainder or the quotient. -/
theorem shiftByOne : Obligations.ShiftByOne :=
  fun _ _ _ => ⟨exec_flags rfl (byte_shiftRight_one_toNat _) (lowBitFlag_toNat _),
    exec_flags rfl (byte_shiftLeft_one_toNat _) (highBitFlag_toNat _)⟩

end Sys2Proof.Machine
end

section
/-! PROOFS, family 44_memory_index.md. The index forms, RND and LD F are updates read as numbers. The block forms make one
`I`-relative access: a store of a list of bytes ends as its `MemWrite`s one by one, and what it leaves in memory is said once. -/

namespace Sys2Proof.Machine

/-- The range check on the address of the last byte of an access (R50). -/
theorem inRange_succ_iff {s : State} {n : Nat} : inRange s (n + 1) ↔ s.i.toNat + n ≤ 0xFFF :=
  Nat.succ_le_succ_iff

/-! Stores as sequences of `MemWrite` (R42, R50, R150). -/

theorem memWrites_of_le (s : State) {a : Nat} {bs : List Byte} (h : a + bs.length ≤ 0x1000) :
    memWrites s a bs = .ok (storeBytes s a bs) := by
  induction bs generalizing s a with
  | nil => rfl
  | cons b bs ih =>
    rw [List.length_cons] at h
    rw [memWrites, memWrite_of_le (by omega)]
    exact ih (storeBytes s a [b]) (by omega)

/-- The first write that faults is the lowest one above `0xFFF`. -/
theorem memWrites_of_gt (s : State) {a : Nat} {bs : List Byte} (hne : bs ≠ []) (h : a + bs.length > 0x1000) :
    memWrites s a bs = .error (.outOfRange (BitVec.ofNat 16 (max a 0x1000))) := by
  induction bs generalizing s a with
  | nil => contradiction
  | cons b bs ih =>
    rw [List.length_cons] at h
    rw [memWrites]
    by_cases ha : a ≤ 0xFFF
    · have hbs : bs ≠ [] := List.ne_nil_of_length_pos (by omega)
      have hmax : max a 0x1000 = max (a + 1) 0x1000 := by omega
      rw [memWrite_of_le ha, hmax]
      exact ih (storeBytes s a [b]) hbs (by omega)
    · rw [memWrite_of_gt (by omega), Nat.max_eq_left (by omega)]

theorem lowestOffending_eq_ofNat (s : State) : lowestOffending s = BitVec.ofNat 16 (max s.i.toNat 0x1000) := by
  rw [← lowestOffending_toNat, BitVec.ofNat_toNat, BitVec.setWidth_eq]

/-- How a form ends whose writes answered `r`. -/
def advanceAfter (r : Except Fault State) : Result :=
  match r with
  | .ok t => .next (advance t)
  | .error f => .fault f

/-- An `I`-relative store ends as its `MemWrite`s in increasing order: the range check fails exactly when one of them faults. -/
theorem indexedStore_eq_memWrites (s : State) {bs : List Byte} {count : Nat} (hlen : bs.length = count) (hc : count ≠ 0) :
    indexedAccess s count (advance (storeBytes s s.i.toNat bs)) = advanceAfter (memWrites s s.i.toNat bs) := by
  subst hlen
  by_cases hr : inRange s bs.length
  · rw [indexedAccess_of_inRange (.inr hr), memWrites_of_le s hr]
    rfl
  · have hne : bs ≠ [] := mt List.length_eq_zero_iff.mpr hc
    rw [indexedAccess_of_not_inRange hc hr, memWrites_of_gt s hne (Nat.lt_of_not_le hr), lowestOffending_eq_ofNat]
    rfl

/-- Settles O33: both forms are `I`-relative stores of a nonempty list of bytes. -/
theorem storesAreMemWritesInOrder : Obligations.StoresAreMemWritesInOrder :=
  fun x s => ⟨indexedStore_eq_memWrites s (bcdDigits_length _) (by decide),
    indexedStore_eq_memWrites s (regBlock_length s x) (Nat.succ_ne_zero _)⟩

/-! What a store leaves (R155, R156). -/

/-- A form whose phase 3 is an `I`-relative store inside memory: the bytes it puts there, and that it does nothing else. -/
theorem exec_stores {i : Instr} {s : State} {bs : List Byte} {count : Nat}
    (h : exec i s = indexedAccess s count (advance (storeBytes s s.i.toNat bs))) (hlen : bs.length = count)
    (hs : Memory.wf s.config.font s.mem) (hr : inRange s count) :
    ∃ t, exec i s = .next t ∧ (∀ (k : Nat) (hk : k < bs.length), byteAt t (s.i.toNat + k) = bs[k]) ∧
      (∀ a, a < s.i.toNat ∨ s.i.toNat + count ≤ a → byteAt t a = byteAt s a) ∧ t.pc = s.pc + 2#16 ∧
      keepsAllBut [.memory] s t ∧ regsKeptBut [] s t := by
  subst hlen
  rw [indexedAccess_of_inRange (.inr hr)] at h
  exact ⟨_, h, byteAt_storeBytes_inside hs s.i.toNat bs hr, fun _ => byteAt_storeBytes_outside s s.i.toNat bs, rfl,
    storeBytes_keepsAllBut s s.i.toNat bs, storeBytes_regsKeptBut s s.i.toNat bs⟩

/-- Each digit fits a byte, so the three bytes are the digits as numbers. -/
theorem bcdDigits_toNat (a : Byte) :
    ((bcdDigits a)[0]).toNat = a.toNat / 100 ∧ ((bcdDigits a)[1]).toNat = a.toNat / 10 % 10 ∧
      ((bcdDigits a)[2]).toNat = a.toNat % 10 := by
  have ha := a.isLt
  refine ⟨Nat.mod_eq_of_lt ?_, Nat.mod_eq_of_lt ?_, Nat.mod_eq_of_lt ?_⟩ <;> omega

/-- Settles O38: the three bytes of the store are the digits. -/
theorem ldBStoresDigits : Obligations.LdBStoresDigits := by
  intro x s hs hi
  obtain ⟨t, hexec, hin, hframe⟩ := exec_stores (i := .ldB x) rfl (bcdDigits_length _) hs (inRange_succ_iff.mpr hi)
  obtain ⟨hhundreds, htens, hones⟩ := bcdDigits_toNat (readV s x)
  refine ⟨t, hexec, ?_, ?_, ?_, hframe⟩
  · exact (congrArg BitVec.toNat (hin 0 (by simp))).trans hhundreds
  · rw [hin 1 (by simp), htens]
  · rw [hin 2 (by simp), hones]

/-- Settles O39: byte `k` of the store is `V[k]`. -/
theorem storeRegsStoresBlock : Obligations.StoreRegsStoresBlock := by
  intro x s hs hi
  obtain ⟨t, hexec, hin, hframe⟩ := exec_stores (i := .storeRegs x) rfl (regBlock_length s x) hs (inRange_succ_iff.mpr hi)
  refine ⟨t, hexec, fun k hk => ?_, hframe⟩
  have hlt : k.val < (regBlock s x).length := by
    rw [regBlock_length]
    exact Nat.lt_succ_of_le hk
  rw [hin k.val hlt, regBlock_getElem]

/-! The block load (R157). -/

/-- Settles O40: inside memory the load is `loadBlock`, which writes registers alone. -/
theorem loadRegsLoadsBlock : Obligations.LoadRegsLoadsBlock := by
  intro x s hi
  have h : exec (.loadRegs x) s = .next (advance (loadBlock s x)) :=
    indexedAccess_of_inRange (.inr (inRange_succ_iff.mpr hi))
  exact ⟨_, h, readV_loadBlock s x, rfl, exec_keepsAllBut h⟩

/-- Settles O41: the store puts `V[k]` at `I + k` (O39) and keeps `I`, so the load reads it from there (O40). -/
theorem storeThenLoadKeepsRegisters : Obligations.StoreThenLoadKeepsRegisters := by
  intro x s hs hi
  obtain ⟨t, hstore, hblock, -, -, htparts, htregs⟩ := storeRegsStoresBlock x s hs hi
  have hti : t.i = s.i := htparts .index (by decide)
  obtain ⟨u, hload, huregs, -, huparts⟩ := loadRegsLoadsBlock x t (by rwa [hti])
  refine ⟨t, u, hstore, hload, fun k hk => ?_, (huparts .index (by decide)).trans hti⟩
  rw [huregs k, hti]
  split
  next hle => exact hblock k hle
  next => exact htregs k hk

/-! The address fault (R150, R175, R212). -/

/-- Settles O42: every one of the four forms makes the range check first, and a failed check faults with `lowestOffending`. -/
theorem addressFaults : Obligations.AddressFaults := by
  intro x y n s
  refine ⟨lowestOffending s, lowestOffending_toNat s, fun h => ?_, fun h => ?_, fun hn h => ?_⟩
  · exact indexedAccess_of_not_inRange (by decide) (mt inRange_succ_iff.mp (Nat.not_le_of_gt h))
  · have hr : ¬ inRange s (x.val + 1) := mt inRange_succ_iff.mp (Nat.not_le_of_gt h)
    exact ⟨indexedAccess_of_not_inRange (Nat.succ_ne_zero _) hr, indexedAccess_of_not_inRange (Nat.succ_ne_zero _) hr⟩
  · exact indexedAccess_of_not_inRange (by omega) (by rw [inRange]; omega)

/-! Index, random byte, glyph address (R151 to R154). -/

/-- Settles O34: the index gets the immediate, zero-extended. -/
theorem ldISetsIndex : Obligations.LdISetsIndex := by
  intro nnn s
  have h : exec (.ldI nnn) s = .next (advance { s with i := addrImm nnn }) := rfl
  exact ⟨_, h, addrImm_toNat nnn, rfl, exec_keepsAllBut h, exec_regsKeptBut h⟩

/-- Settles O35: sum and flag are those of the old operands, and nothing writes VF after the flag. -/
theorem addIWrapsAndFlags : Obligations.AddIWrapsAndFlags := by
  intro x s
  have h : exec (.addI x) s =
    .next (advance { writeV s regF (indexFlag s.i (readV s x)) with i := indexSum s.i (readV s x) }) := rfl
  refine ⟨_, h, indexSum_toNat _ _, ?_, rfl, exec_keepsAllBut h, exec_regsKeptBut h⟩
  exact (congrArg BitVec.toNat (readV_writeV_same s regF _)).trans (indexFlag_toNat _ _)

/-- Settles O36: the register gets the next draw masked by `nn`, and the draw is used up. -/
theorem rndMasksTheDraw : Obligations.RndMasksTheDraw := by
  intro x nn s
  have h : exec (.rnd x nn) s = .next (advance (writeV (drawn s) x (Config.freeRnd s.draws &&& nn))) := rfl
  refine ⟨_, h, fun k => ?_, rfl, rfl, exec_keepsAllBut h, exec_regsKeptBut h⟩
  rw [readV_advance, readV_writeV_same, BitVec.getLsbD_and]

/-- Settles O37: the address is `glyphAddr` of the old `V[x]`. -/
theorem ldFPointsAtGlyph : Obligations.LdFPointsAtGlyph := by
  intro x s
  have h : exec (.ldF x) s = .next (advance { s with i := glyphAddr (readV s x) }) := rfl
  exact ⟨_, h, glyphAddr_toNat _, rfl, exec_keepsAllBut h, exec_regsKeptBut h⟩

end Sys2Proof.Machine
end

section
/-! PROOFS, family 45_sprite_draw.md. What a drawing step does to a canvas is one relation, `Inverts`: the set of grid pixels it
inverts, and the collisions it notes. A bit, a row and the rows invert sets that follow the recursion of the drawing loop (R170). -/

namespace Sys2Proof.Machine

/-- The pixel `(px, py)` of a canvas is on. -/
def Canvas.lit (c : Canvas) (px py : Nat) : Bool := c.fb.getLsbD (py * 64 + px)

/-- Some grid pixel of the set `S` is on. -/
def Canvas.meets (c : Canvas) (S : Nat → Nat → Bool) : Prop :=
  ∃ px py, px ≤ 63 ∧ py ≤ 31 ∧ c.lit px py = true ∧ S px py = true

/-- `d` is `c` with the grid pixels of `S` inverted, each collision on the way noted (R173). -/
structure Inverts (S : Nat → Nat → Bool) (c d : Canvas) : Prop where
  pixels : ∀ px py, px ≤ 63 → py ≤ 31 → d.lit px py = (c.lit px py != S px py)
  collision : d.collision = true ↔ c.collision = true ∨ c.meets S

/-! Drawing nothing, and one thing after another. -/

/-- A set with no pixel on the grid (R172). -/
theorem inverts_none {S : Nat → Nat → Bool} (c : Canvas) (hS : ∀ px py, px ≤ 63 → py ≤ 31 → S px py = false) :
    Inverts S c c where
  pixels px py hx hy := by rw [hS px py hx hy, Bool.bne_false]
  collision := by
    refine (or_iff_left ?_).symm
    rintro ⟨px, py, hx, hy, -, hmem⟩
    rw [hS px py hx hy] at hmem
    cases hmem

/-- Where the second set does not overlap the first, its collisions are with pixels of the canvas at the start. -/
theorem Inverts.trans {S T U : Nat → Nat → Bool} {c d e : Canvas} (hcd : Inverts S c d) (hde : Inverts T d e)
    (hU : ∀ px py, U px py = (S px py || T px py)) (hdisjoint : ∀ px py, S px py = true → T px py = false) :
    Inverts U c e where
  pixels px py hx hy := by
    have hST := hdisjoint px py
    rw [hde.pixels px py hx hy, hcd.pixels px py hx hy, hU]
    cases hS : S px py with
    | false => simp
    | true => simp [hST hS]
  collision := by
    have hmeets : d.meets T ↔ c.meets T := by
      refine exists₂_congr fun px py => and_congr_right fun hx => and_congr_right fun hy => and_congr_left fun hT => ?_
      have hS : S px py = false := by
        rw [Bool.eq_false_iff]
        intro hS
        rw [hdisjoint px py hS] at hT
        cases hT
      rw [hcd.pixels px py hx hy, hS, Bool.bne_false]
    have hunion : c.meets U ↔ c.meets S ∨ c.meets T := by
      simp only [Canvas.meets, hU, Bool.or_eq_true, and_or_left, exists_or]
    rw [hde.collision, hcd.collision, hmeets, hunion, or_assoc]

/-! One bit (R172, R173). -/

theorem pixelIndex_inj {px py sx sy : Nat} (hx : px ≤ 63) (hsx : sx ≤ 63) :
    sy * 64 + sx = py * 64 + px ↔ px = sx ∧ py = sy := by
  omega

/-- A bit inverts its own pixel; off the grid there is no such pixel. -/
theorem plot_inverts (sx sy : Nat) (c : Canvas) : Inverts (fun px py => decide (px = sx ∧ py = sy)) c (plot sx sy c) := by
  by_cases hgrid : sx ≤ 63 ∧ sy ≤ 31
  · have hindex : sy * 64 + sx < 2048 := by omega
    rw [plot, if_pos hgrid]
    constructor
    case pixels =>
      intro px py hx hy
      simp only [Canvas.lit, BitVec.getLsbD_xor, BitVec.getLsbD_twoPow, hindex, pixelIndex_inj hx hgrid.1, decide_true,
        Bool.true_and]
    case collision =>
      have hmeets : c.meets (fun px py => decide (px = sx ∧ py = sy)) ↔ c.lit sx sy = true := by
        simp only [Canvas.meets, decide_eq_true_eq]
        constructor
        · rintro ⟨_, _, -, -, hlit, rfl, rfl⟩
          exact hlit
        · exact fun hlit => ⟨sx, sy, hgrid.1, hgrid.2, hlit, rfl, rfl⟩
      rw [hmeets, ← Bool.or_eq_true]
      rfl
  · rw [plot, if_neg hgrid]
    refine inverts_none c fun px py hx hy => decide_eq_false ?_
    rintro ⟨rfl, rfl⟩
    exact hgrid ⟨hx, hy⟩

/-- A bit of a row draws its pixel if it is 1. -/
theorem plotIf_inverts (b : Bool) (sx sy : Nat) (c : Canvas) :
    Inverts (fun px py => b && decide (px = sx ∧ py = sy)) c (if b then plot sx sy c else c) := by
  cases b with
  | false => exact inverts_none c fun _ _ _ _ => rfl
  | true => exact plot_inverts sx sy c

/-! A row, the rows (R171). -/

/-- The pixels under the 1 bits of the row `b` on screen row `sy`, its columns `col` to `col + left - 1`. -/
def rowBits (b : Byte) (sx sy col left px py : Nat) : Bool :=
  decide (sx + col ≤ px ∧ px < sx + col + left) && decide (py = sy) && b.getLsbD (7 - (px - sx))

theorem drawRow_inverts (b : Byte) (sx sy col left : Nat) (c : Canvas) :
    Inverts (rowBits b sx sy col left) c (drawRow b sx sy col left c) := by
  induction left generalizing col c with
  | zero => exact inverts_none c fun px py _ _ => by simp [rowBits]
  | succ left ih =>
    refine (plotIf_inverts (b.getLsbD (7 - col)) (sx + col) sy c).trans (ih (col + 1) _) (fun px py => ?_) (fun px py h => ?_)
    · by_cases hpx : px = sx + col
      · simp [rowBits, hpx, Bool.and_comm]
      · have hcols : sx + col ≤ px ∧ px < sx + col + (left + 1) ↔ sx + (col + 1) ≤ px ∧ px < sx + (col + 1) + left := by omega
        simp [rowBits, hpx, hcols]
    · simp only [Bool.and_eq_true, decide_eq_true_eq] at h
      simp [rowBits, h.2.1]

/-- The pixels under the 1 bits of a sprite of `n` rows at address `a`, its top left corner at `(sx, sy)`. -/
def spriteBits (s : State) (a n sx sy px py : Nat) : Bool :=
  decide (sx ≤ px ∧ px < sx + 8) && decide (sy ≤ py ∧ py < sy + n) && (byteAt s (a + (py - sy))).getLsbD (7 - (px - sx))

theorem drawRows_inverts (s : State) (a n sx sy : Nat) (c : Canvas) :
    Inverts (spriteBits s a n sx sy) c (drawRows (loadBytes s a n) sx sy c) := by
  induction n generalizing a sy c with
  | zero => exact inverts_none c fun px py _ _ => by simp [spriteBits]
  | succ n ih =>
    refine (drawRow_inverts (byteAt s a) sx sy 0 8 c).trans (ih (a + 1) (sy + 1) _) (fun px py => ?_) (fun px py h => ?_)
    · obtain habove | rfl | hbelow := lt_trichotomy py sy
      · have hrow : ¬ (sy ≤ py) ∧ ¬ (sy + 1 ≤ py) ∧ py ≠ sy := by omega
        simp [rowBits, spriteBits, hrow]
      · simp [rowBits, spriteBits]
      · have hrows : sy ≤ py ∧ py < sy + (n + 1) ↔ sy + 1 ≤ py ∧ py < sy + 1 + n := by omega
        have haddr : a + (py - sy) = a + 1 + (py - (sy + 1)) := by omega
        simp [rowBits, spriteBits, hrows, haddr, hbelow.ne']
    · simp only [rowBits, Bool.and_eq_true, decide_eq_true_eq] at h
      simp [spriteBits, h.1.2]

/-! DRW (R170 to R176). -/

/-- The canvas DRW ends with. -/
def drwCanvas (s : State) (x y : RegNum) (n : BitVec 4) : Canvas :=
  drawRows (loadBytes s s.i.toNat n.toNat) (readV s x).toNat (readV s y).toNat { fb := s.fb, collision := false }

theorem drwCanvas_inverts (s : State) (x y : RegNum) (n : BitVec 4) :
    Inverts (spriteBit s x y n) { fb := s.fb, collision := false } (drwCanvas s x y n) :=
  drawRows_inverts s s.i.toNat n.toNat (readV s x).toNat (readV s y).toNat _

theorem exec_drw_of_le {s : State} {n : BitVec 4} (h : n.toNat = 0 ∨ s.i.toNat + n.toNat - 1 ≤ 0xFFF) (x y : RegNum) :
    exec (.drw x y n) s = .next (advance (withCanvas s (drwCanvas s x y n))) :=
  indexedAccess_of_inRange (by rw [inRange]; omega)

/-- The set bits of a sprite meet a pixel of the screen that is on: the collision of R173. -/
def collides (s : State) (x y : RegNum) (n : BitVec 4) : Prop :=
  ∃ px py, px ≤ 63 ∧ py ≤ 31 ∧ pixel s px py = true ∧ spriteBit s x y n px py = true

theorem drwCanvas_collision_iff (s : State) (x y : RegNum) (n : BitVec 4) :
    (drwCanvas s x y n).collision = true ↔ collides s x y n :=
  (drwCanvas_inverts s x y n).collision.trans (by simp [Canvas.meets, Canvas.lit, collides, pixel])

theorem readV_withCanvas_regF (s : State) (c : Canvas) : readV (withCanvas s c) regF = flagByte c.collision :=
  readV_writeV_same { s with fb := c.fb } regF _

/-- Settles O43: the canvas inverts the sprite's bits, VF is its collision flag, and DRW writes nothing else. -/
theorem drwXorsSprite : Obligations.DrwXorsSprite := by
  intro x y n s hn
  have h := exec_drw_of_le hn x y
  have hflag := drwCanvas_collision_iff s x y n
  have hVF := readV_withCanvas_regF s (drwCanvas s x y n)
  refine ⟨_, h, (drwCanvas_inverts s x y n).pixels, fun hlit => ?_, fun hoff => ?_, rfl, rfl, exec_keepsAllBut h,
    exec_regsKeptBut h⟩
  · exact hVF.trans (by rw [hflag.mpr hlit]; rfl)
  · have hnone : ¬ collides s x y n := by
      rintro ⟨px, py, hx, hy, hlit, hbit⟩
      rw [hoff px py hx hy hlit] at hbit
      cases hbit
    exact hVF.trans (by rw [Bool.eq_false_iff.mpr (mt hflag.mp hnone)]; rfl)

/-! Drawing twice. -/

/-- Two framebuffers that agree on the grid are one (R23). -/
theorem fb_eq_of_pixels {s t : State} (h : ∀ px py, px ≤ 63 → py ≤ 31 → pixel t px py = pixel s px py) : t.fb = s.fb := by
  refine BitVec.eq_of_getLsbD_eq fun k hk => ?_
  have hpixel := h (k % 64) (k / 64) (by omega) (by omega)
  rwa [pixel, pixel, Nat.div_add_mod'] at hpixel

/-- A sprite's bits depend on its two coordinates, the index and memory. -/
theorem spriteBit_congr {s t : State} {x y : RegNum} (hx : readV t x = readV s x) (hy : readV t y = readV s y)
    (hi : t.i = s.i) (hmem : ∀ a, byteAt t a = byteAt s a) (n : BitVec 4) : spriteBit t x y n = spriteBit s x y n := by
  funext px py
  simp only [spriteBit, hx, hy, hi, hmem]

/-- Settles O44: the first draw leaves coordinates, index and rows, so the second inverts the same pixels (O43) and finds on, of
those under its set bits, the ones that were off. -/
theorem drwTwiceRestoresScreen : Obligations.DrwTwiceRestoresScreen := by
  intro x y n s hx hy hn
  obtain ⟨t, hexec, htpixels, -, -, -, -, htparts, htregs⟩ := drwXorsSprite x y n s hn
  have hti : t.i = s.i := htparts .index (by decide)
  have hbit : spriteBit t x y n = spriteBit s x y n :=
    spriteBit_congr (htregs x (by simpa using hx)) (htregs y (by simpa using hy)) hti (htparts .memory (by decide)) n
  obtain ⟨u, hexec', hupixels, hlit, hoff, -⟩ := drwXorsSprite x y n t (by rwa [hti])
  refine ⟨t, u, hexec, hexec', fb_eq_of_pixels fun px py hpx hpy => ?_, ?_⟩
  · rw [hupixels px py hpx hpy, htpixels px py hpx hpy, hbit, Bool.bne_assoc, bne_self_eq_false, Bool.bne_false]
  · have hcollides : collides t x y n ↔
        ∃ px py, px ≤ 63 ∧ py ≤ 31 ∧ pixel s px py = false ∧ spriteBit s x y n px py = true := by
      refine exists₂_congr fun px py => and_congr_right fun hpx => and_congr_right fun hpy => ?_
      rw [hbit]
      refine and_congr_left fun hset => ?_
      rw [htpixels px py hpx hpy, hset, Bool.bne_true, Bool.not_eq_true']
    rw [← hcollides]
    refine ⟨fun hVF => by_contra fun hnone => ?_, hlit⟩
    have hzero := hoff fun px py hpx hpy hon => Bool.eq_false_iff.mpr fun hset => hnone ⟨px, py, hpx, hpy, hon, hset⟩
    rw [hVF] at hzero
    exact absurd hzero (by decide)

end Sys2Proof.Machine
end

section
/-! PROOFS, family 46_timer_input.md. LD Vx,DT and a served key wait are register writes (`exec_writes`), SKP and SKNP on a
key number are skips (`exec_skips`); what is left is one equation per outcome of each form. -/

namespace Sys2Proof.Machine

/-! Timers (R180 to R182). -/

/-- Settles O45: the first is a register write, the other two each write the one timer. -/
theorem timerMoves : Obligations.TimerMoves := by
  intro x s
  have hdt : exec (.ldDtVx x) s = .next (advance { s with dt := readV s x }) := rfl
  have hst : exec (.ldStVx x) s = .next (advance { s with st := readV s x }) := rfl
  refine ⟨exec_writes rfl, ?_, ?_⟩
  · exact ⟨_, hdt, rfl, rfl, exec_keepsAllBut hdt, exec_regsKeptBut hdt⟩
  · exact ⟨_, hst, rfl, rfl, exec_keepsAllBut hst, exec_regsKeptBut hst⟩

/-! SKP and SKNP (R183, R184, R186). -/

theorem keyOperand_of_eq {s : State} {x : RegNum} {k : Fin 16} (hk : (readV s x).toNat = k.val) :
    keyOperand s x = .ok k := by
  obtain ⟨hlt, hkey⟩ | ⟨hgt, -⟩ := keyOperand_cases s x
  · rw [hkey, show (⟨_, hlt⟩ : Fin 16) = k from Fin.ext hk]
  · omega

theorem keyOperand_of_gt {s : State} {x : RegNum} (h : 15 < (readV s x).toNat) :
    keyOperand s x = .error (.outOfRange (byteWord (readV s x))) := by
  obtain ⟨hlt, -⟩ | ⟨-, hkey⟩ := keyOperand_cases s x
  · omega
  · exact hkey

theorem exec_skp_of_eq {s : State} {x : RegNum} {k : Fin 16} (hk : (readV s x).toNat = k.val) :
    exec (.skp x) s = .next (skipIf s (keyDown s k)) := by
  simp only [exec, execSkp, keyOperand_of_eq hk]

theorem exec_sknp_of_eq {s : State} {x : RegNum} {k : Fin 16} (hk : (readV s x).toNat = k.val) :
    exec (.sknp x) s = .next (skipIf s (!keyDown s k)) := by
  simp only [exec, execSknp, keyOperand_of_eq hk]

theorem exec_skp_of_gt {s : State} {x : RegNum} (h : 15 < (readV s x).toNat) :
    exec (.skp x) s = .fault (.outOfRange (byteWord (readV s x))) := by
  simp only [exec, execSkp, keyOperand_of_gt h, raise]

theorem exec_sknp_of_gt {s : State} {x : RegNum} (h : 15 < (readV s x).toNat) :
    exec (.sknp x) s = .fault (.outOfRange (byteWord (readV s x))) := by
  simp only [exec, execSknp, keyOperand_of_gt h, raise]

/-- Settles O46: on a key number SKP skips on its level and SKNP on the negation; any other number is the fault's information. -/
theorem skipOnKey : Obligations.SkipOnKey := by
  intro x s
  refine ⟨fun k hk => ⟨exec_skips ?_, exec_skips_unless ?_⟩, fun h => ?_⟩
  · rw [exec_skp_of_eq hk, Bool.decide_eq_true]
  · rw [exec_sknp_of_eq hk, decide_not, Bool.decide_eq_true]
  · exact ⟨_, byteWord_toNat _, exec_skp_of_gt h, exec_sknp_of_gt h⟩

/-! LD Vx,K (R185). -/

theorem exec_ldVxK_of_lowestKey {s : State} {k : Fin 16} (hk : lowestKey s = some k) (x : RegNum) :
    exec (.ldVxK x) s = .next (advance (writeV s x (BitVec.ofNat 8 k.val))) := by
  simp only [exec, execLdVxK, hk]

theorem keyNumber_toNat (k : Fin 16) : (BitVec.ofNat 8 k.val).toNat = k.val := by
  rw [BitVec.toNat_ofNat]
  omega

/-- Settles O47: a blocked wait changes nothing; otherwise the least pressed key is what `lowestKey` finds, and the form writes it. -/
theorem keyWait : Obligations.KeyWait := by
  intro x s
  refine ⟨fun hkeys => exec_ldVxK_of_no_key hkeys x, fun k hdown hleast => ?_⟩
  obtain ⟨t, hexec, hx, hframe⟩ := exec_writes (exec_ldVxK_of_lowestKey (lowestKey_eq_some.mpr ⟨hdown, hleast⟩) x)
  exact ⟨t, hexec, by rw [hx, keyNumber_toNat], hframe⟩

end Sys2Proof.Machine
end

section
/-! PROOFS, family 47_host_interface.md. The host's transactions: what each write of the host does when it is in range, and that
an OBSERVE is a bounds check around a field's value. -/

namespace Sys2Proof.Machine

/-! LOAD (R197). -/

theorem transact_load_of_le {bytes : List Byte} (h : bytes.length ≤ Config.progMax) (s : State) :
    transact (.load bytes) s = (storeBytes s Config.progBase bytes, .done) := by
  simp only [transact, hostLoad, if_neg (Nat.not_lt.mpr h), applied]

theorem transact_load_of_gt {bytes : List Byte} (h : Config.progMax < bytes.length) (s : State) :
    transact (.load bytes) s = (s, .failed .programTooLarge) := by
  simp only [transact, hostLoad, if_pos h, applied]

/-- Settles O54: a LOAD that fits is one block store from `0x200` up, and 3584 bytes from there end at `0xFFF`. -/
theorem loadCopiesProgram : Obligations.LoadCopiesProgram := by
  intro bytes s hs
  refine ⟨fun hlen => ⟨_, transact_load_of_le hlen s, ?_, fun _ => byteAt_storeBytes_outside s _ bytes, rfl,
    storeBytes_keepsAllBut s _ bytes, storeBytes_regsKeptBut s _ bytes⟩, fun hlen => transact_load_of_gt hlen s⟩
  have hend : 0x200 + bytes.length ≤ 0x1000 := by omega
  exact byteAt_storeBytes_inside hs 0x200 bytes hend

/-! RESET, KEY and ACK_REDRAW (R196, R198, R199). -/

/-- The state with the level of one key. -/
def withKey (s : State) (k : Fin 16) (pressed : Bool) : State := { s with keys := s.keys.set k.val pressed k.isLt }

theorem transact_key_of_lt (k : Fin 16) (pressed : Bool) (s : State) :
    transact (.key k.val pressed) s = (withKey s k pressed, .done) := by
  simp only [transact, hostKey, dif_pos k.isLt, applied, withKey]

theorem transact_key_of_gt {k : Nat} (h : 15 < k) (pressed : Bool) (s : State) :
    transact (.key k pressed) s = (s, .failed (.outOfRange k)) := by
  simp only [transact, hostKey, dif_neg (Nat.not_lt.mpr h), applied]

theorem keyDown_withKey (s : State) (k j : Fin 16) (pressed : Bool) :
    keyDown (withKey s k pressed) j = if j = k then pressed else keyDown s j := by
  simp [keyDown, withKey, Vector.get_eq_getElem, Vector.getElem_set, Fin.ext_iff, eq_comm]

theorem withKey_keepsAllBut (s : State) (k : Fin 16) (pressed : Bool) : keepsAllBut [.keys] s (withKey s k pressed) := by
  simp [keepsAllBut_iff, withKey, byteAt]

theorem hostAckRedraw_keepsAllBut (s : State) : keepsAllBut [.redraw] s (hostAckRedraw s) := by
  simp [keepsAllBut_iff]

theorem hostReset_sameCore (s : State) : sameCore (State.resetWith s.config) (hostReset s) := by
  simp [sameCore]

/-- RESET reads the configuration and the count of draws alone, and keeps both. -/
theorem hostReset_hostReset (s : State) : hostReset (hostReset s) = hostReset s := rfl

/-- Settles O53: one equation per outcome of each transaction; KEY sets one entry of the key matrix. -/
theorem resetKeyAckTransactions : Obligations.ResetKeyAckTransactions := by
  intro s
  refine ⟨⟨hostReset s, rfl, hostReset_sameCore s, Prod.ext (hostReset_hostReset s) rfl⟩, fun k pressed => ?_,
    fun k pressed hk => transact_key_of_gt hk pressed s,
    ⟨hostAckRedraw s, rfl, rfl, rfl, hostAckRedraw_keepsAllBut s, fun _ _ => rfl⟩⟩
  refine ⟨_, transact_key_of_lt k pressed s, ?_, fun j hj => ?_, rfl, withKey_keepsAllBut s k pressed, fun _ _ => rfl⟩
  · rw [keyDown_withKey, if_pos rfl]
  · rw [keyDown_withKey, if_neg hj]

/-! OBSERVE (R201). -/

theorem probeAt_of_lt {index limit : Nat} (value : Nat) (h : index < limit) : probeAt index limit value = .ok value :=
  if_pos h

theorem probeAt_of_le {index limit : Nat} (value : Nat) (h : limit ≤ index) :
    probeAt index limit value = .error (.outOfRange index) :=
  if_neg (Nat.not_lt.mpr h)

/-- In range, the default of the accessor is not used. -/
theorem getD_toList_eq_get {α : Type} {n : Nat} (v : Vector α n) (k : Fin n) (d : α) : v.toList.getD k.val d = v.get k := by
  simp [Vector.get_eq_getElem]

theorem observe_v (r : RegNum) (s : State) : observe (.v r.val) s = .ok (readV s r).toNat := by
  rw [observe, probeAt_of_lt _ r.isLt, getD_toList_eq_get, readV]

theorem observe_stack (k : Fin 16) (s : State) : observe (.stack k.val) s = .ok (s.stack.get k).toNat := by
  rw [observe, probeAt_of_lt _ k.isLt, getD_toList_eq_get]

theorem observe_key (k : Fin 16) (s : State) : observe (.key k.val) s = .ok (keyDown s k).toNat := by
  rw [observe, probeAt_of_lt _ k.isLt, getD_toList_eq_get, keyDown]

/-- Settles O56: each indexed probe is a bounds check, and every pixel of the grid has an index below 2048 (R23). -/
theorem observeReadsOnly : Obligations.ObserveReadsOnly := by
  intro s
  refine ⟨fun p => transact_observe_state p s, fun r => observe_v r s, fun k => observe_stack k s, fun k => observe_key k s,
    fun a ha => probeAt_of_lt _ (Nat.lt_succ_of_le ha), fun px py hx hy => ?_, ⟨rfl, rfl, rfl, rfl, rfl, rfl⟩,
    fun k hk => ⟨probeAt_of_le _ hk, probeAt_of_le _ hk, probeAt_of_le _ hk⟩, fun a ha => probeAt_of_le _ ha,
    fun k hk => probeAt_of_le _ hk⟩
  exact probeAt_of_lt _ (show py * 64 + px < 2048 by omega)

end Sys2Proof.Machine
end

section
/-! PROOFS, family 60_exceptions.md. The fault of a STEP is a function of the state, `stepFault`: phase 3 of each form ends as
`faultOf` says (`exec_endsBy`), and nothing the host's other moves write is read by it. -/

namespace Sys2Proof.Machine

/-! How phase 3 ends. -/

/-- The result is the given fault, or with none a next state. -/
def EndsBy (o : Option Fault) (r : Result) : Prop :=
  match o with
  | some f => r = .fault f
  | none => ∃ t, r = .next t

theorem EndsBy.next_or_fault {o : Option Fault} {r : Result} (h : EndsBy o r) :
    (∃ t, r = .next t) ∨ ∃ f, r = .fault f := by
  cases o with
  | none => exact .inl h
  | some f => exact .inr ⟨f, h⟩

theorem EndsBy.eq_fault_iff {o : Option Fault} {r : Result} (h : EndsBy o r) {f : Fault} : r = .fault f ↔ o = some f := by
  cases o with
  | none =>
    obtain ⟨t, rfl⟩ := h
    simp
  | some g =>
    obtain rfl : r = .fault g := h
    simp

/-- A form with one fault condition. -/
theorem endsBy_ite {p : Prop} [Decidable p] {f : Fault} {r : Result} (hfault : p → r = .fault f)
    (hnext : ¬p → ∃ t, r = .next t) : EndsBy (if p then some f else none) r := by
  split
  next h => exact hfault h
  next h => exact hnext h

theorem endsBy_thenTick {o : Option Fault} {r : Result} (h : EndsBy o r) : EndsBy o (thenTick r) := by
  cases o with
  | none =>
    obtain ⟨t, rfl⟩ := h
    exact ⟨tick t, rfl⟩
  | some f => exact thenTick_eq_fault.mpr h

/-- An `I`-relative form, for any spelling `p` of its range check (R50, R150). -/
theorem indexedAccess_endsBy {p : Prop} [Decidable p] {s t : State} {count : Nat} (hp : p ↔ count ≠ 0 ∧ ¬ inRange s count) :
    EndsBy (if p then some (.outOfRange (lowestOffending s)) else none) (indexedAccess s count t) := by
  refine endsBy_ite (fun h => ?_) fun h => ⟨t, indexedAccess_of_inRange ?_⟩
  · obtain ⟨hcount, hrange⟩ := hp.mp h
    exact indexedAccess_of_not_inRange hcount hrange
  · rw [hp] at h
    tauto

/-- Each form ends as the table of causes says (R210, R212). The last group is the forms that always complete. -/
theorem exec_endsBy (i : Instr) (s : State) : EndsBy (faultOf i s) (exec i s) := by
  cases i with
  | ret =>
    refine endsBy_ite exec_ret_of_empty fun h => ⟨_, exec_ret_of_live (k := ⟨s.sp.val - 1, by omega⟩) ?_⟩
    show s.sp.val = s.sp.val - 1 + 1
    omega
  | call nnn =>
    exact endsBy_ite (fun h => exec_call_of_full h nnn) fun h =>
      ⟨_, exec_call_of_free (k := ⟨s.sp.val, by omega⟩) rfl nnn⟩
  | skp x =>
    exact endsBy_ite exec_skp_of_gt fun h => ⟨_, exec_skp_of_eq (k := ⟨(readV s x).toNat, by omega⟩) rfl⟩
  | sknp x =>
    exact endsBy_ite exec_sknp_of_gt fun h => ⟨_, exec_sknp_of_eq (k := ⟨(readV s x).toNat, by omega⟩) rfl⟩
  | ldB | storeRegs | loadRegs | drw => exact indexedAccess_endsBy (by rw [inRange]; omega)
  | ldVxK x =>
    show ∃ t, execLdVxK x s = .next t
    unfold execLdVxK
    cases lowestKey s with
    | none => exact ⟨_, rfl⟩
    | some k => exact ⟨_, rfl⟩
  | cls | sys | jp | jpV0 | seImm | sneImm | seReg | sneReg | ldImm | addImm | ldReg | orReg | andReg | xorReg | addReg
  | subReg | shr | subnReg | shl | ldI | addI | rnd | ldF | ldVxDt | ldDtVx | ldStVx => exact ⟨_, rfl⟩

/-! The fault of a STEP. -/

/-- The fault of a STEP, if it has one: the fetch's, or that of the decoded form (R82, R210). -/
def stepFault (s : State) : Option Fault :=
  if 0xFFE < s.pc.toNat then some (.invalidFetch s.pc) else (decodeOp (opcodeAt s)).bind fun i => faultOf i s

theorem stepFault_eq_some {s : State} {f : Fault} : stepFault s = some f ↔
    (0xFFE < s.pc.toNat ∧ f = .invalidFetch s.pc) ∨
    (s.pc.toNat ≤ 0xFFE ∧ ∃ i, decodeOp (opcodeAt s) = some i ∧ faultOf i s = some f) := by
  by_cases h : 0xFFE < s.pc.toNat
  · simp [stepFault, h, Nat.not_le.mpr h, eq_comm]
  · simp [stepFault, h, Nat.le_of_not_lt h, Option.bind_eq_some_iff]

/-- The table of causes reads what the outputs, the keys and the redraw flag do not change. -/
theorem faultOf_congr {s t : State} (hparts : keepsAllBut [.keys, .redraw, .report] s t) (hregs : regsKeptBut [] s t)
    (hpc : t.pc = s.pc) (i : Instr) : faultOf i t = faultOf i s := by
  have hi : t.i = s.i := hparts .index (by decide)
  have hsp : t.sp = s.sp := hparts .sp (by decide)
  have hv (x : RegNum) : readV t x = readV s x := hregs x (by simp)
  cases i with
  | ret | call => simp only [faultOf, hsp, hpc]
  | ldB | storeRegs | loadRegs | drw => simp only [faultOf, lowestOffending, hi]
  | skp | sknp => simp only [faultOf, hv]
  | _ => rfl

theorem opcodeAt_congr {s t : State} (hmem : kept .memory s t) (hpc : t.pc = s.pc) : opcodeAt t = opcodeAt s := by
  simp only [opcodeAt, hpc, hmem _]

theorem stepFault_congr {s t : State} (hparts : keepsAllBut [.keys, .redraw, .report] s t) (hregs : regsKeptBut [] s t)
    (hpc : t.pc = s.pc) : stepFault t = stepFault s := by
  simp only [stepFault, hpc, opcodeAt_congr (hparts .memory (by decide)) hpc, faultOf_congr hparts hregs hpc]

theorem step_endsBy (s : State) : EndsBy (stepFault s) (step s) := by
  by_cases hpc : 0xFFE < s.pc.toNat
  · obtain ⟨-, hf⟩ | ⟨hle, -⟩ := fetch_cases s
    · simp only [stepFault, if_pos hpc, step, hf]
      rfl
    · omega
  · rw [stepFault, if_neg hpc, step_of_le (Nat.le_of_not_lt hpc)]
    apply endsBy_thenTick
    cases hop : decodeOp (opcodeAt s) with
    | none =>
      rw [execWord_of_none hop]
      exact ⟨_, rfl⟩
    | some i =>
      have hclear : faultOf i (clearOutputs s) = faultOf i s :=
        faultOf_congr (keepsAllBut_mono (by simp) (clearOutputs_keepsAllBut s)) (fun _ _ => rfl) rfl i
      rw [execWord_of_some hop, Option.bind_some, ← hclear]
      exact exec_endsBy i (clearOutputs s)

/-- Settles O11: a STEP ends by `stepFault`. -/
theorem stepFaultsExactly : Obligations.StepFaultsExactly :=
  fun s => ⟨(step_endsBy s).next_or_fault, fun _ => (step_endsBy s).eq_fault_iff.trans stepFault_eq_some⟩

/-! Persistence (R221, R229). -/

theorem step_fault_congr {s t : State} {f : Fault} (hparts : keepsAllBut [.keys, .redraw, .report] s t)
    (hregs : regsKeptBut [] s t) (hpc : t.pc = s.pc) (h : step s = .fault f) : step t = .fault f := by
  rw [(step_endsBy _).eq_fault_iff] at h ⊢
  rwa [stepFault_congr hparts hregs hpc]

/-- One move of the host other than RESET and LOAD: a STEP that faults leaves the state, an OBSERVE always does, and the others
write the keys or the redraw flag alone (O53). -/
theorem transact_keeps_fault {t : Transaction} {s : State} {f : Fault} (h : step s = .fault f) (hreset : t ≠ .reset)
    (hload : ∀ bytes, t ≠ .load bytes) : step (transact t s).1 = .fault f := by
  cases t with
  | reset => exact absurd rfl hreset
  | load bytes => exact absurd rfl (hload bytes)
  | key k pressed =>
    by_cases hk : k < 16
    · rw [transact_key_of_lt ⟨k, hk⟩]
      exact step_fault_congr (keepsAllBut_mono (by simp) (withKey_keepsAllBut s _ pressed)) (fun _ _ => rfl) rfl h
    · rwa [transact_key_of_gt (Nat.le_of_not_lt hk)]
  | ackRedraw =>
    exact step_fault_congr (keepsAllBut_mono (by simp) (hostAckRedraw_keepsAllBut s)) (fun _ _ => rfl) rfl h
  | step => rwa [(stepTransactionResult s).2 f h]
  | observe p => rwa [transact_observe_state]

/-- Settles O57: by induction on the schedule, whose first move leaves the same fault. -/
theorem faultIsPersistent : Obligations.FaultIsPersistent := by
  intro ts
  induction ts with
  | nil => exact fun s f h _ => h
  | cons t ts ih =>
    intro s f h hts
    obtain ⟨⟨hreset, hload⟩, hts⟩ := List.forall_mem_cons.mp hts
    exact ih _ f (transact_keeps_fault h hreset hload) hts

end Sys2Proof.Machine
end
